-- ==== Sys2Proof/Word.lean ====
section
/-! DEFINITION. The word types of the block: only widths, no byte order and no field of an encoding (those stand in
Decode.lean and under Machine/). -/

namespace Sys2Proof

/-- `u8` (spec R8): a frame byte, a checksum, a TAG, a descriptor index. -/
abbrev Byte := BitVec 8

/-- `u16` (spec R8): the value of one decoded word, a divisor. -/
abbrev Word := BitVec 16

/-- A command word (spec R50): 32 bits, always. -/
abbrev Command := BitVec 32

/-- A field descriptor register (spec R25, R56): 64 bits. -/
abbrev Desc := BitVec 64

/-- What one host access moves (spec R15): a 64-bit value. -/
abbrev HostWord := BitVec 64

/-- A register index of the host port (spec R15): 16 bits. -/
abbrev RegIndex := BitVec 16

end Sys2Proof
end

