-- ==== Sys2Proof/Syntax.lean ====
section
/-! DEFINITION. The command set: one constructor per row of spec/opcode_table.json. An operand is the field of the
encoding that carries it (spec R52), so its type is that field's width. Bits that a row ignores are no part of the
command (spec R51, R62; DEDUCED, log entry 4). -/

namespace Sys2Proof

/-- A command of the block (spec R53). The ten illegal rows are commands too: each raises UnknownOperation (R103). -/
inductive Instr where
  /-- CRC8 (R67): checksum of the byte pair `a`, `b`, `a` first. The C field of its format is ignored. -/
  | crc8 (a b : Byte)
  /-- CHECK (R68): is `c` the checksum of the byte pair `a`, `b`? -/
  | check (a b c : Byte)
  /-- WENC (R70): the wire group of the 16-bit value `v`. -/
  | wenc (v : Word)
  /-- WDEC (R71): decode the frame into validated words. -/
  | wdec
  /-- EXTRACT (R80): decode the field of descriptor `k`. -/
  | extract (k : Byte)
  /-- READING (R92): decode every field and commit the Reading, or nothing of it. -/
  | reading
  /-- ILLEGAL, OP 0x0 (R103). -/
  | illegal0
  /-- ILLEGAL, OP 0x7 (R103). -/
  | illegal7
  /-- ILLEGAL, OP 0x8 (R103). -/
  | illegal8
  /-- ILLEGAL, OP 0x9 (R103). -/
  | illegal9
  /-- ILLEGAL, OP 0xA (R103). -/
  | illegalA
  /-- ILLEGAL, OP 0xB (R103). -/
  | illegalB
  /-- ILLEGAL, OP 0xC (R103). -/
  | illegalC
  /-- ILLEGAL, OP 0xD (R103). -/
  | illegalD
  /-- ILLEGAL, OP 0xE (R103). -/
  | illegalE
  /-- ILLEGAL, OP 0xF (R103). -/
  | illegalF
  deriving DecidableEq, Repr

end Sys2Proof
end

