-- ==== Sys2Proof/WellFormed.lean ====
section
/-! DEFINITION. Which commands are well formed. A decoded command always is: every operand is a whole field, and within
a legal OP no operand value is reserved (spec R54). What can be ill formed is a line of assembly, whose operands are
plain numbers: spec R61 gives each its range, and the assembler refuses an operand outside it and does not truncate. -/

namespace Sys2Proof

/-- Spec R54: "Within a legal OP, no value of the ignored bits or of the operand fields is reserved." The operands'
types are their fields' widths, so nothing is left to check. -/
def Instr.wellFormed : Instr → Bool
  | .crc8 _ _ | .check _ _ _ | .wenc _ | .wdec | .extract _ | .reading => true
  | .illegal0 | .illegal7 | .illegal8 | .illegal9 | .illegalA => true
  | .illegalB | .illegalC | .illegalD | .illegalE | .illegalF => true

/-- A command as the assembler reads it (spec R61) or one of the two pseudo-instructions (spec R63). -/
inductive AsmCommand where
  | crc8 (a b : Nat)
  | check (a b c : Nat)
  | wenc (v : Nat)
  | wdec
  | extract (k : Nat)
  | reading
  /-- `crc8w V` = `crc8 V[15:8], V[7:0]` (R63). -/
  | crc8w (v : Nat)
  /-- `checkw V, C` = `check V[15:8], V[7:0], C` (R63). -/
  | checkw (v c : Nat)
  deriving DecidableEq, Repr

/-- Spec R61: A, B, C and K must lie in 0 to 255, and V in 0 to 65535. For the pseudo-instructions the range of V is
the one R61 gives a V (DEDUCED, log entry 11). -/
def AsmCommand.wellFormed : AsmCommand → Bool
  | .crc8 a b => a ≤ 255 && b ≤ 255
  | .check a b c => a ≤ 255 && b ≤ 255 && c ≤ 255
  | .wenc v => v ≤ 65535
  | .wdec => true
  | .extract k => k ≤ 255
  | .reading => true
  | .crc8w v => v ≤ 65535
  | .checkw v c => v ≤ 65535 && c ≤ 255

end Sys2Proof
end

