-- ==== Sys2Proof/Decode.lean ====
section
/-! DEFINITION. The decoder of a command word (spec R50 to R55), the encoder and the assembler (R61 to R63), and the
opcode map as data (R53). A command is one 32-bit value of a host write: it lies in no memory and has no byte order. -/

namespace Sys2Proof

/-- OP, bits [31:28] (spec R50): it alone selects the command. -/
def opField (w : Command) : BitVec 4 := w.extractLsb' 28 4

/-- A, bits [15:8] (spec R52). -/
def aField (w : Command) : Byte := w.extractLsb' 8 8

/-- B, bits [7:0] (spec R52). -/
def bField (w : Command) : Byte := w.extractLsb' 0 8

/-- C, bits [23:16] (spec R52). -/
def cField (w : Command) : Byte := w.extractLsb' 16 8

/-- V, bits [15:0] (spec R52). -/
def vField (w : Command) : Word := w.extractLsb' 0 16

/-- K, bits [7:0] (spec R52). -/
def kField (w : Command) : Byte := w.extractLsb' 0 8

/-- The opcode map of spec R53. OP has four bits, so the last case is OP 0xF alone. -/
def decode (w : Command) : Instr :=
  match (opField w).toNat with
  | 0x0 => .illegal0
  | 0x1 => .crc8 (aField w) (bField w)
  | 0x2 => .check (aField w) (bField w) (cField w)
  | 0x3 => .wenc (vField w)
  | 0x4 => .wdec
  | 0x5 => .extract (kField w)
  | 0x6 => .reading
  | 0x7 => .illegal7
  | 0x8 => .illegal8
  | 0x9 => .illegal9
  | 0xA => .illegalA
  | 0xB => .illegalB
  | 0xC => .illegalC
  | 0xD => .illegalD
  | 0xE => .illegalE
  | _ => .illegalF

/-- Why a string of bits is no command word. -/
inductive DecodeError where
  /-- Longer than 32 bits: "There is no other command length, no prefix and no continuation word" (spec R50). -/
  | longerThanACommand (nbits : Nat)
  deriving DecidableEq, Repr

/-- The decoder on a string of `nbits` bits with the value `w`: the bits above them are 0, and a string longer than a
command is rejected by name (DESIGN CHOICE, log entry 12). -/
def decodeBits (nbits w : Nat) : Except DecodeError Instr :=
  if 32 < nbits then .error (.longerThanACommand nbits)
  else .ok (decode (BitVec.ofNat 32 (w % 2 ^ nbits)))

/-- The command the decoder reads from a row's bits, numbered as spec/opcode_table.json numbers them. -/
def decodeTableWord (nbits w : Nat) : Option Instr :=
  match decodeBits nbits w with
  | .ok i => some i
  | .error _ => none

/-- Format P (spec R51): OP, four ignored bits, C, A, B. -/
def formatP (op : BitVec 4) (c a b : Byte) : Command := op ++ 0#4 ++ c ++ a ++ b

/-- Format V (spec R51): OP, twelve ignored bits, V. -/
def formatV (op : BitVec 4) (v : Word) : Command := op ++ 0#12 ++ v

/-- Format K (spec R51): OP, twenty ignored bits, K. -/
def formatK (op : BitVec 4) (k : Byte) : Command := op ++ 0#20 ++ k

/-- Format N (spec R51): OP and 28 ignored bits. -/
def formatN (op : BitVec 4) : Command := op ++ 0#28

/-- The word of a command, every ignored bit 0 (spec R61, R62). For an illegal row it is the row's match value. -/
def encode : Instr → Command
  | .crc8 a b => formatP 0x1 0 a b
  | .check a b c => formatP 0x2 c a b
  | .wenc v => formatV 0x3 v
  | .wdec => formatN 0x4
  | .extract k => formatK 0x5 k
  | .reading => formatN 0x6
  | .illegal0 => formatN 0x0
  | .illegal7 => formatN 0x7
  | .illegal8 => formatN 0x8
  | .illegal9 => formatN 0x9
  | .illegalA => formatN 0xA
  | .illegalB => formatN 0xB
  | .illegalC => formatN 0xC
  | .illegalD => formatN 0xD
  | .illegalE => formatN 0xE
  | .illegalF => formatN 0xF

/-- The mnemonic of a command's row in spec/opcode_table.json. -/
def Instr.mnemonic : Instr → String
  | .crc8 _ _ => "CRC8"
  | .check _ _ _ => "CHECK"
  | .wenc _ => "WENC"
  | .wdec => "WDEC"
  | .extract _ => "EXTRACT"
  | .reading => "READING"
  | .illegal0 | .illegal7 | .illegal8 | .illegal9 | .illegalA => "ILLEGAL"
  | .illegalB | .illegalC | .illegalD | .illegalE | .illegalF => "ILLEGAL"

/-- One row of spec/opcode_table.json. -/
structure OpcodeRow where
  mnemonic : String
  pattern : Command
  mask : Command
  deriving DecidableEq, Repr

/-- spec/opcode_table.json (the rows of spec R53), in its order. The match mask is 0xF0000000 in every row. -/
def opcodeTable : List OpcodeRow :=
  [⟨"CRC8", 0x10000000, 0xF0000000⟩, ⟨"CHECK", 0x20000000, 0xF0000000⟩, ⟨"WENC", 0x30000000, 0xF0000000⟩,
    ⟨"WDEC", 0x40000000, 0xF0000000⟩, ⟨"EXTRACT", 0x50000000, 0xF0000000⟩, ⟨"READING", 0x60000000, 0xF0000000⟩] ++
  [⟨"ILLEGAL", 0x00000000, 0xF0000000⟩, ⟨"ILLEGAL", 0x70000000, 0xF0000000⟩, ⟨"ILLEGAL", 0x80000000, 0xF0000000⟩,
    ⟨"ILLEGAL", 0x90000000, 0xF0000000⟩, ⟨"ILLEGAL", 0xA0000000, 0xF0000000⟩, ⟨"ILLEGAL", 0xB0000000, 0xF0000000⟩,
    ⟨"ILLEGAL", 0xC0000000, 0xF0000000⟩, ⟨"ILLEGAL", 0xD0000000, 0xF0000000⟩, ⟨"ILLEGAL", 0xE0000000, 0xF0000000⟩,
    ⟨"ILLEGAL", 0xF0000000, 0xF0000000⟩]

/-- Spec R53: does a command word select a row? -/
def OpcodeRow.selects (r : OpcodeRow) (w : Command) : Bool := w &&& r.mask == r.pattern

/-- The bits of the word of a command that its row ignores (spec R51; for CRC8 the C field too). They are 0 in the
assembler's word and free in any other word of the same command. -/
def ignoredMask : Instr → Command
  | .crc8 _ _ => 0x0FFF0000
  | .check _ _ _ => 0x0F000000
  | .wenc _ => 0x0FFF0000
  | .wdec => 0x0FFFFFFF
  | .extract _ => 0x0FFFFF00
  | .reading => 0x0FFFFFFF
  | .illegal0 | .illegal7 | .illegal8 | .illegal9 | .illegalA => 0x0FFFFFFF
  | .illegalB | .illegalC | .illegalD | .illegalE | .illegalF => 0x0FFFFFFF

/-- V[15:8] and V[7:0] of a pseudo-instruction's V (spec R63). -/
def pseudoHigh (v : Nat) : Byte := (BitVec.ofNat 16 v).extractLsb' 8 8

/-- See `pseudoHigh`. -/
def pseudoLow (v : Nat) : Byte := (BitVec.ofNat 16 v).extractLsb' 0 8

/-- What an assembly line stands for, its operands in range (spec R61, R63). -/
def AsmCommand.expand : AsmCommand → Instr
  | .crc8 a b => .crc8 (BitVec.ofNat 8 a) (BitVec.ofNat 8 b)
  | .check a b c => .check (BitVec.ofNat 8 a) (BitVec.ofNat 8 b) (BitVec.ofNat 8 c)
  | .wenc v => .wenc (BitVec.ofNat 16 v)
  | .wdec => .wdec
  | .extract k => .extract (BitVec.ofNat 8 k)
  | .reading => .reading
  | .crc8w v => .crc8 (pseudoHigh v) (pseudoLow v)
  | .checkw v c => .check (pseudoHigh v) (pseudoLow v) (BitVec.ofNat 8 c)

/-- The assembler of spec R61 to R63: the command's word, or `none` where an operand is out of range. -/
def AsmCommand.assemble (c : AsmCommand) : Option Command :=
  if c.wellFormed then some (encode c.expand) else none

end Sys2Proof
end

