-- ==== Sys2Proof/Config.lean ====
section
/-! DEFINITION. What is fixed for one block: the implementation parameters of spec R7 (a model takes them as arguments
with the stated defaults) and the constants of the CRC and of the FIXED mode. The spec leaves no value open, so there is
no free value here (log entry 9). -/

namespace Sys2Proof

/-- The implementation parameters of spec R7, with their default values. A block carries them unchanged for life. -/
structure Params where
  /-- `MAX_FRAME_BYTES`, the capacity of the frame buffer in bytes (decision D7). -/
  maxFrameBytes : Nat := 60
  /-- `MAX_FIELDS`, the capacity of the descriptor table and of the Reading registers (decision D8). -/
  maxFields : Nat := 20
  deriving DecidableEq, Repr

/-- The parameters at their stated defaults (spec R7): 60 and 20. -/
def Params.default : Params := {}

/-- `MAX_WORDS = MAX_FRAME_BYTES / 3` (spec R7): one word per 3 bytes. -/
def Params.maxWords (p : Params) : Nat := p.maxFrameBytes / 3

/-- The legal ranges of spec R7: `MAX_FRAME_BYTES` a multiple of 3 and at most 255, `MAX_FIELDS` from 1 to 64. -/
abbrev Params.legal (p : Params) : Prop :=
  p.maxFrameBytes % 3 = 0 ∧ p.maxFrameBytes ≤ 255 ∧ 1 ≤ p.maxFields ∧ p.maxFields ≤ 64

/-- The CRC polynomial (spec R7, R65). -/
def Config.crcPoly : Byte := 0x31

/-- The initial value of the CRC running register (spec R7, R65). -/
def Config.crcInit : Byte := 0xFF

/-- The fixed divisor of the FIXED mode (spec R7, R85). -/
def Config.fixedDivisor : Nat := 65535

end Sys2Proof
end

