-- ==== Sys2Proof/Machine/State.lean ====
section
/-! DEFINITION. The state of the block (spec R13 to R29): every register of the map of spec R16, the parameters it was
built with, and the two things the model adds to hold the host's side of the port: the accesses the host has issued and
the block has not yet taken, and the value the last host read returned. Plain data. -/

namespace Sys2Proof.Machine

/-- The error of the last command: STATUS.ERR (spec R19, R101). Codes 6 to 15 are never produced (log
entry 7). -/
inductive ErrCode where
  /-- Code 0: the command succeeded. -/
  | ok
  /-- Code 1: FLEN is not a multiple of 3. -/
  | frameLength
  /-- Code 2: a word of the field fails its checksum. -/
  | checksum
  /-- Code 3: an illegal opcode. -/
  | unknownOperation
  /-- Code 4: no such descriptor, a malformed descriptor, an overlap, or a coverage failure. -/
  | descriptor
  /-- Code 5: the field reaches past the frame. -/
  | fieldRange
  deriving DecidableEq, Repr

/-- The kind of a decoded scalar (spec R22): R_KIND and RD_KIND. Value 3 is never produced (log entry 7).
-/
inductive Kind where
  /-- 0: no scalar. -/
  | none
  /-- 1: binary32 bits. -/
  | float32
  /-- 2: an exact rational. -/
  | rational
  deriving DecidableEq, Repr

/-- The fields of STATUS that are stored (spec R19). The RVALID bit of STATUS mirrors the RVALID register, and the
reserved bits read 0: neither is stored (see `statusWord`; DEDUCED, log entry 14). -/
structure Status where
  /-- ERR, bits [3:0]. -/
  err : ErrCode
  /-- VALID, bit 4. -/
  valid : Bool
  /-- ERRK, bits [15:8]. -/
  errK : Byte
  /-- ERRTAG, bits [23:16]. -/
  errTag : Byte
  deriving DecidableEq, Repr

/-- A decoded scalar, the tuple (kind, bits, num, den, tag) of spec R79: the registers R_* (spec R22), and one element
of each of the five arrays RD_* (spec R27). -/
structure Scalar where
  /-- R_KIND, 2 bits in the register map. -/
  kind : Kind
  /-- R_BITS: a binary32 bit pattern. -/
  bits : BitVec 32
  /-- R_NUM, a 64-bit two's-complement integer. -/
  num : BitVec 64
  /-- R_DEN. -/
  den : BitVec 16
  /-- R_TAG. -/
  tag : Byte
  deriving DecidableEq, Repr

/-- No scalar: the cleared registers (0, 0, 0, 0, 0) (spec R22, R80). -/
def Scalar.empty : Scalar := ⟨.none, 0, 0, 0, 0⟩

/-- The frame buffer byte space (spec R30, R31): addresses 0 to `MAX_FRAME_BYTES - 1`. Held as the bytes that differ
from the reset byte, in rising order of address (`Memory.wf`, Ops.lean; log entry 6). -/
abbrev Memory := List Host.Cell

/-- One thing the host, or the block's environment, does to the block (spec R13, R40, R112). -/
inductive HostEvent where
  /-- A host read of a register index. -/
  | read (index : RegIndex)
  /-- A host write of a value to a register index. A write to CMD executes a command (spec R18). -/
  | write (index : RegIndex) (value : HostWord)
  /-- The reset input is asserted (spec R112). -/
  | reset
  deriving DecidableEq, Repr

/-- The error a command raises (spec R10): `E(k, tag)`. -/
structure Failure where
  err : ErrCode
  k : Byte
  tag : Byte
  deriving DecidableEq, Repr

/-- How the machine can stop. The spec gives the block no trap and no stop (R98, R100): a failing command records its
error and the block goes on. -/
inductive Fault where
  /-- A `MemRead` outside FB (spec R10: "It is defined only when `i + n <= MAX_FRAME_BYTES`"). Raised by EXTRACT and
  READING, only in a state where FLEN exceeds MAX_FRAME_BYTES, which no run reaches (spec R23, R77). Safe (DESIGN CHOICE,
  log entry 8). -/
  | frameAddress
  deriving DecidableEq, Repr

/-- Why an instruction has no meaning. No arm of the model refuses. -/
inductive Refusal where
  /-- The instruction has no meaning in the model yet. Raised by no arm. Safe. -/
  | notModelled (mnemonic : String)
  deriving DecidableEq, Repr

/-- The block and its host port. -/
structure State where
  /-- The implementation parameters (spec R7). No step changes them (log entry 5). -/
  params : Params
  /-- STATUS, index 0x001 (spec R19). -/
  status : Status
  /-- CRC_OUT, index 0x002 (spec R20). -/
  crcOut : Byte
  /-- ENC_OUT, index 0x003 (spec R21). -/
  encOut : BitVec 24
  /-- R_KIND, R_BITS, R_NUM, R_DEN and R_TAG, indices 0x004 to 0x008 (spec R22). -/
  single : Scalar
  /-- FLEN, index 0x009 (spec R23). -/
  flen : Byte
  /-- NW, index 0x00A (spec R24). -/
  nw : Byte
  /-- NF, index 0x00B (spec R25). -/
  nf : Byte
  /-- RVALID, index 0x00C (spec R27), and bit 5 of STATUS. -/
  rvalid : Bool
  /-- RNF, index 0x00D (spec R27). -/
  rnf : Byte
  /-- FB[i], index 0x100 + i (spec R26). -/
  fb : Memory
  /-- WVAL[j], index 0x200 + j, `MAX_WORDS` of them (spec R24). -/
  wval : List Word
  /-- WOK[j], index 0x280 + j, `MAX_WORDS` of them (spec R24). -/
  wok : List Bool
  /-- DESC[k], index 0x300 + k, `MAX_FIELDS` of them (spec R25). -/
  desc : List Desc
  /-- RD_KIND[k], RD_BITS[k], RD_NUM[k], RD_DEN[k] and RD_TAG[k], `MAX_FIELDS` of each (spec R27). -/
  rd : List Scalar
  /-- The host accesses issued and not yet taken, oldest first (spec R44). The model's own (DESIGN CHOICE,
  log entry 1). -/
  inbox : List HostEvent
  /-- The value the last host read returned (spec R15). The model's own (DESIGN CHOICE, log entry 2). -/
  readData : HostWord
  deriving DecidableEq, Repr

/-- A block with parameters `p` right after reset (spec R111): every register is 0. No host access is pending. -/
def State.resetWith (p : Params) : State where
  params := p
  status := ⟨.ok, false, 0, 0⟩
  crcOut := 0
  encOut := 0
  single := Scalar.empty
  flen := 0
  nw := 0
  nf := 0
  rvalid := false
  rnf := 0
  fb := []
  wval := List.replicate p.maxWords 0
  wok := List.replicate p.maxWords false
  desc := List.replicate p.maxFields 0
  rd := List.replicate p.maxFields Scalar.empty
  inbox := []
  readData := 0

/-- The machine right after reset, the parameters at their stated defaults (spec R7, R111). -/
def State.reset : State := State.resetWith Params.default

end Sys2Proof.Machine
end

