-- ==== Sys2Proof/Machine/Ops.lean ====
section
/-! DEFINITION. The named operations the meanings are written over: reading and writing the frame buffer, ending a
command (`finishOk`, `raise`: the block has no trap, spec R98, so recording an error is all there is of taking an
exception, and there is no return from one), and one update for each group of registers that a command writes. -/

namespace Sys2Proof.Machine

/-! ## The frame buffer -/

/-- What an address of the frame buffer that is not listed reads as: the reset byte 0x00 (spec R16, R111). -/
def Memory.unlisted : Byte := 0x00

/-- The canonical form: addresses strictly rising, and no listed byte equal to `Memory.unlisted`. -/
abbrev Memory.wf (m : Memory) : Prop :=
  m.Pairwise (fun x y => x.1 < y.1) ∧ ∀ c ∈ m, c.2 ≠ Memory.unlisted

/-- FB[a] (spec R31). -/
def Memory.read : Memory → Nat → Byte
  | [], _ => Memory.unlisted
  | (b, v) :: rest, a => if a = b then v else Memory.read rest a

/-- The list with (a, v) in front, unless that is what an unlisted address reads as. -/
def Memory.place (a : Nat) (v : Byte) (rest : Memory) : Memory :=
  if v = Memory.unlisted then rest else (a, v) :: rest

/-- `FB[a] <- v` (spec R40), keeping the canonical form. -/
def Memory.write : Memory → Nat → Byte → Memory
  | [], a, v => Memory.place a v []
  | (b, w) :: rest, a, v =>
    if a < b then Memory.place a v ((b, w) :: rest)
    else if a = b then Memory.place a v rest
    else (b, w) :: Memory.write rest a v

/-- `MemWrite(i, 1, v)` (spec R10, R40). -/
def State.writeFb (s : State) (i : Nat) (v : Byte) : State := { s with fb := s.fb.write i v }

/-- A wire group as it stands in the frame (spec R32): data high byte, data low byte, checksum byte. -/
structure Group where
  hi : Byte
  lo : Byte
  ck : Byte
  deriving DecidableEq, Repr

/-- The group at frame byte `b`: `MemRead(b, 3)` (spec R10, R32), where the caller has ensured that it lies in FB. -/
def groupAt (m : Memory) (b : Nat) : Group := ⟨m.read b, m.read (b + 1), m.read (b + 2)⟩

/-- `MemRead(b, 3*n)` as `n` groups (spec R39, R74). It is defined only when the bytes lie in FB (spec R10). -/
def readGroups (s : State) (b n : Nat) : Option (List Group) :=
  if b + 3 * n ≤ s.params.maxFrameBytes then some ((List.range n).map fun j => groupAt s.fb (b + 3 * j)) else none

/-! ## The end of a command (spec R102) -/

/-- `finish_ok(valid)`: ERR = 0, VALID = valid, ERRK = 0, ERRTAG = 0. -/
def State.finishOk (s : State) (valid : Bool) : State := { s with status := ⟨.ok, valid, 0, 0⟩ }

/-- `raise E(k, tag)`: ERR = code(E), VALID = 0, ERRK = k, ERRTAG = tag. The further writes of a failure path are the
command's own. -/
def State.raise (s : State) (f : Failure) : State := { s with status := ⟨f.err, false, f.k, f.tag⟩ }

/-! ## The registers a command writes (spec R20 to R27, decision D33) -/

/-- CRC_OUT (spec R20). -/
def State.setCrcOut (s : State) (c : Byte) : State := { s with crcOut := c }

/-- ENC_OUT (spec R21). -/
def State.setEncOut (s : State) (e : BitVec 24) : State := { s with encOut := e }

/-- The single-result registers (spec R22). -/
def State.setSingle (s : State) (r : Scalar) : State := { s with single := r }

/-- `clear_single()` (spec R80). -/
def State.clearSingle (s : State) : State := s.setSingle Scalar.empty

/-- NW, WVAL and WOK, all of them (spec R24, R71). -/
def State.setWords (s : State) (n : Byte) (vals : List Word) (oks : List Bool) : State :=
  { s with nw := n, wval := vals, wok := oks }

/-- NW <- 0 and every WVAL[j] and WOK[j] <- 0 (spec R71, the failure path). -/
def State.clearWords (s : State) : State :=
  s.setWords 0 (List.replicate s.params.maxWords 0) (List.replicate s.params.maxWords false)

/-- RVALID <- 0 (spec R92, the failure path). -/
def State.dropReading (s : State) : State := { s with rvalid := false }

/-- The commit of a Reading (spec R92, R95): every RD_* register, RNF and RVALID, all together. -/
def State.commitReading (s : State) (n : Byte) (rd : List Scalar) : State := { s with rvalid := true, rnf := n, rd := rd }

/-! ## The registers the host writes (spec R23, R25) and the host port -/

/-- A host write to FLEN: ignored when the value exceeds MAX_FRAME_BYTES (spec R23). -/
def State.writeFlen (s : State) (v : Byte) : State :=
  if s.params.maxFrameBytes < v.toNat then s else { s with flen := v }

/-- A host write to NF: ignored when the value exceeds MAX_FIELDS (spec R25). -/
def State.writeNf (s : State) (v : Byte) : State :=
  if s.params.maxFields < v.toNat then s else { s with nf := v }

/-- A host write to DESC[k]: any value is stored (spec R25). -/
def State.writeDesc (s : State) (k : Nat) (d : Desc) : State := { s with desc := s.desc.set k d }

/-- The host accesses still to be taken. -/
def State.setInbox (s : State) (es : List HostEvent) : State := { s with inbox := es }

/-- The value a host read returns. -/
def State.setReadData (s : State) (v : HostWord) : State := { s with readData := v }

/-- The reset input (spec R111, R112): every register gets its reset value. The parameters are the block's own for
life, and what the host has issued and received is the host's (DESIGN CHOICE, log
entry 3). -/
def State.resetRegisters (s : State) : State :=
  ((State.resetWith s.params).setInbox s.inbox).setReadData s.readData

end Sys2Proof.Machine
end

