-- ==== Sys2Proof/Machine/Crc.lean ====
section
/-! DEFINITION. The checksum function of spec R65, bit by bit as the rule gives it, and the validity of a word. -/

namespace Sys2Proof.Machine

/-- One of the eight rounds on the running register: shift out the top bit, apply the polynomial if it was 1. -/
def crcRound (r : Byte) : Byte := if r.getLsbD 7 then (r <<< 1) ^^^ Config.crcPoly else r <<< 1

/-- `n` rounds. -/
def crcRounds : Nat → Byte → Byte
  | 0, r => r
  | n + 1, r => crcRounds n (crcRound r)

/-- One byte through the running register. -/
def crcByte (r byte : Byte) : Byte := crcRounds 8 (r ^^^ byte)

/-- The running register after the bytes of a list, first byte first. -/
def crcRun (bytes : List Byte) : Byte := bytes.foldl crcByte Config.crcInit

/-- `crc8(a, b)` (spec R65): `a` first, no final XOR. -/
def crc8 (a b : Byte) : Byte := crcRun [a, b]

/-- The value of a wire group, big-endian: `{h, l}` (spec R32). -/
def Group.value (g : Group) : Word := g.hi ++ g.lo

/-- A word is valid iff the checksum of its data bytes equals its checksum byte (spec R12, R74). -/
def Group.ok (g : Group) : Bool := crc8 g.hi g.lo == g.ck

end Sys2Proof.Machine
end

