-- ==== Sys2Proof/Machine/Checksum.lean ====
section
/-! DEFINITION. The checksum commands CRC8 and CHECK (spec R67, R68). -/

namespace Sys2Proof.Machine

/-- CRC8 (spec R67). -/
def execCrc8 (a b : Byte) (s : State) : Host.Outcome State Fault Refusal :=
  .next ((s.setCrcOut (crc8 a b)).finishOk true)

/-- CHECK (spec R68): a mismatch is a result, not an error. -/
def execCheck (a b c : Byte) (s : State) : Host.Outcome State Fault Refusal :=
  .next ((s.setCrcOut (crc8 a b)).finishOk (crc8 a b == c))

end Sys2Proof.Machine
end

