-- ==== Sys2Proof/Machine/Operands.lean ====
section
/-! DEFINITION. The fields of a descriptor (spec R56 to R59) and the byte span it selects (spec R74). -/

namespace Sys2Proof.Machine

/-- BYTEOFF, bits [7:0]. -/
def descOff (d : Desc) : Nat := (d.extractLsb' 0 8).toNat

/-- WCNT, bits [9:8] (spec R57): the number of words, 1 or 2 in a legal descriptor. -/
def descWcnt (d : Desc) : Nat := (d.extractLsb' 8 2).toNat

/-- A decode mode (spec R58). -/
inductive Mode where
  /-- Code 0. -/
  | float32
  /-- Code 1. -/
  | fixed
  /-- Code 2. -/
  | idiv
  /-- Code 3: a command that uses it raises DescriptorError. -/
  | reserved
  deriving DecidableEq, Repr

/-- MODE, bits [11:10] (spec R58). -/
def descMode (d : Desc) : Mode :=
  match (d.extractLsb' 10 2).toNat with
  | 0 => .float32
  | 1 => .fixed
  | 2 => .idiv
  | _ => .reserved

/-- TAG, bits [23:16]. -/
def descTag (d : Desc) : Byte := d.extractLsb' 16 8

/-- SCALE of a FIXED descriptor: bits [47:32] as `s16` (spec R59). -/
def descScale (d : Desc) : Int := (d.extractLsb' 32 16).toInt

/-- OFFS of a FIXED descriptor: bits [63:48] as `s16` (spec R59). -/
def descOffs (d : Desc) : Int := (d.extractLsb' 48 16).toInt

/-- DIV of an IDIV descriptor: bits [47:32] as `u16` (spec R59). -/
def descDiv (d : Desc) : BitVec 16 := d.extractLsb' 32 16

/-- The end of the descriptor's byte span `[BYTEOFF, BYTEOFF + 3*WCNT)` (spec R74). -/
def descEnd (d : Desc) : Nat := descOff d + 3 * descWcnt d

/-- DESC[k] (spec R25). A `k` beyond the table is used by no command in a state that a run reaches (spec R79;
DESIGN CHOICE, log entry 13). -/
def State.descAt (s : State) (k : Nat) : Desc := s.desc.getD k 0

/-- ERRK of an error of descriptor `k`: `k[7:0]` (spec R102). -/
def fieldFailure (s : State) (e : ErrCode) (k : Nat) : Failure := ⟨e, BitVec.ofNat 8 k, descTag (s.descAt k)⟩

end Sys2Proof.Machine
end

