-- ==== Sys2Proof/Machine/Scalar.lean ====
section
/-! DEFINITION. The three decode modes (spec R82, R85, R87), when two rational results stand for one value (spec R88),
and the value a binary32 pattern stands for (spec R83, which no command computes). -/

namespace Sys2Proof.Machine

/-- FLOAT32 (spec R82): the bits `{v0, v1}`, unchanged. -/
def float32 (v0 v1 : Word) (tag : Byte) : Scalar := ⟨.float32, v0 ++ v1, 0, 0, tag⟩

/-- The exact numerator of FIXED (spec R85): `v0 * S + O * 65535`. -/
def fixedNum (v0 : Word) (scale offs : Int) : Int := (v0.toNat : Int) * scale + offs * (Config.fixedDivisor : Int)

/-- FIXED (spec R85): the exact numerator over 65535, not reduced. It fits `s64` (spec R86). -/
def fixed (v0 : Word) (scale offs : Int) (tag : Byte) : Scalar :=
  ⟨.rational, 0, BitVec.ofInt 64 (fixedNum v0 scale offs), BitVec.ofNat 16 Config.fixedDivisor, tag⟩

/-- IDIV (spec R87): the word over the divisor, no division performed. -/
def idiv (v0 : Word) (div : BitVec 16) (tag : Byte) : Scalar := ⟨.rational, 0, v0.setWidth 64, div, tag⟩

/-- The case on MODE that ends `field_decode` (spec R79), on the values of the field's words. The structure check has
ruled the reserved mode out before: that arm is never used (`Laws`, `structureFails_of_reserved`). -/
def decodeScalar (d : Desc) (words : List Word) : Scalar :=
  match descMode d with
  | .float32 => float32 (words.getD 0 0) (words.getD 1 0) (descTag d)
  | .fixed => fixed (words.getD 0 0) (descScale d) (descOffs d) (descTag d)
  | .idiv => idiv (words.getD 0 0) (descDiv d) (descTag d)
  | .reserved => Scalar.empty

/-- The exact rational NUM/DEN that a rational result stands for (spec R12, R88). -/
def Scalar.value (r : Scalar) : Rat := (r.num.toInt : Rat) / (r.den.toNat : Rat)

/-- Two rational results stand for the same value exactly when `n1 * d2 = n2 * d1` (spec R88). -/
def Scalar.sameValue (r q : Scalar) : Bool := r.num.toInt * (q.den.toNat : Int) == q.num.toInt * (r.den.toNat : Int)

/-- What a binary32 pattern stands for (spec R83, from general knowledge: PRESUMED, log entry 10). -/
inductive Binary32 where
  /-- A finite nonzero number: `(-1)^negative * significand * 2^exponent`. -/
  | finite (negative : Bool) (significand : Nat) (exponent : Int)
  | zero (negative : Bool)
  | infinity (negative : Bool)
  | nan (quiet : Bool)
  deriving DecidableEq, Repr

/-- Spec R83, for the reader of R_BITS: s = bits[31], e = bits[30:23], f = bits[22:0]. The significand is scaled by 2^23,
so a normal number is `(2^23 + f) * 2^(e - 150)` and a subnormal `f * 2^(-149)`. No command uses it. -/
def binary32 (bits : BitVec 32) : Binary32 :=
  let s := bits.getLsbD 31
  let e := (bits.extractLsb' 23 8).toNat
  let f := (bits.extractLsb' 0 23).toNat
  if e = 255 then (if f = 0 then .infinity s else .nan (bits.getLsbD 22))
  else if e = 0 then (if f = 0 then .zero s else .finite s f (-149))
  else .finite s (2 ^ 23 + f) ((e : Int) - 150)

end Sys2Proof.Machine
end

