-- ==== Sys2Proof/Machine/Extract.lean ====
section
/-! DEFINITION. The checks of spec R75 to R78, `field_decode` (spec R79) and EXTRACT (spec R80). -/

namespace Sys2Proof.Machine

/-- What a part of a command comes to: a result, the error the command raises, or a fault of the machine. -/
inductive Attempt (α : Type) where
  | ok (a : α)
  | fail (f : Failure)
  | fault (f : Fault)
  deriving DecidableEq, Repr

/-- The frame check (spec R75). -/
def frameFailure (s : State) : Option Failure :=
  if s.flen.toNat % 3 ≠ 0 then some ⟨.frameLength, 0, 0⟩ else none

/-- The structure check of spec R76, its six items in order: `true` when it fails. -/
def structureFails (d : Desc) : Bool :=
  (descWcnt d == 0 || descWcnt d == 3) ||
  descMode d == .reserved ||
  (descMode d == .float32 && descWcnt d != 2) ||
  ((descMode d == .fixed || descMode d == .idiv) && descWcnt d != 1) ||
  (descMode d == .idiv && descDiv d == 0) ||
  descOff d % 3 != 0

/-- The range check of spec R77: `true` when it fails. -/
def rangeFails (s : State) (d : Desc) : Bool := s.flen.toNat < descEnd d

/-- The structure check, then the range check, of descriptor `k` (spec R76, R77). -/
def configFailure (s : State) (k : Nat) : Option Failure :=
  if structureFails (s.descAt k) then some (fieldFailure s .descriptor k)
  else if rangeFails s (s.descAt k) then some (fieldFailure s .fieldRange k)
  else none

/-- The words of descriptor `k`'s field (spec R74), after the checksum check of spec R78. -/
def fieldWords (s : State) (k : Nat) : Attempt (List Word) :=
  match readGroups s (descOff (s.descAt k)) (descWcnt (s.descAt k)) with
  | none => .fault .frameAddress
  | some gs => if gs.all Group.ok then .ok (gs.map Group.value) else .fail (fieldFailure s .checksum k)

/-- `field_decode(k)` (spec R79). -/
def fieldDecode (s : State) (k : Nat) : Attempt Scalar :=
  match configFailure s k with
  | some f => .fail f
  | none =>
    match fieldWords s k with
    | .fault f => .fault f
    | .fail f => .fail f
    | .ok ws => .ok (decodeScalar (s.descAt k) ws)

/-- The checks of EXTRACT in their order (spec R80, R105): frame, index, then `field_decode`. -/
def extractResult (k : Byte) (s : State) : Attempt Scalar :=
  match frameFailure s with
  | some f => .fail f
  | none => if s.nf.toNat ≤ k.toNat then .fail ⟨.descriptor, k, 0⟩ else fieldDecode s k.toNat

/-- EXTRACT (spec R80). Every failure path clears the single-result registers. -/
def execExtract (k : Byte) (s : State) : Host.Outcome State Fault Refusal :=
  match extractResult k s with
  | .fault f => .fault f
  | .fail f => .next (s.clearSingle.raise f)
  | .ok r => .next ((s.setSingle r).finishOk true)

end Sys2Proof.Machine
end

