-- ==== Sys2Proof/Machine/Illegal.lean ====
section
/-! DEFINITION. The illegal command words (spec R103): OP 0x0 and 0x7 to 0xF. Each raises UnknownOperation(0, 0) and
changes nothing else. -/

namespace Sys2Proof.Machine

/-- `raise UnknownOperation(0, 0)` (spec R103). -/
def raiseUnknownOperation (s : State) : Host.Outcome State Fault Refusal := .next (s.raise ⟨.unknownOperation, 0, 0⟩)

/-- ILLEGAL, OP 0x0 (spec R103). -/
def execIllegal0 (s : State) : Host.Outcome State Fault Refusal := raiseUnknownOperation s

/-- ILLEGAL, OP 0x7 (spec R103). -/
def execIllegal7 (s : State) : Host.Outcome State Fault Refusal := raiseUnknownOperation s

/-- ILLEGAL, OP 0x8 (spec R103). -/
def execIllegal8 (s : State) : Host.Outcome State Fault Refusal := raiseUnknownOperation s

/-- ILLEGAL, OP 0x9 (spec R103). -/
def execIllegal9 (s : State) : Host.Outcome State Fault Refusal := raiseUnknownOperation s

/-- ILLEGAL, OP 0xA (spec R103). -/
def execIllegalA (s : State) : Host.Outcome State Fault Refusal := raiseUnknownOperation s

/-- ILLEGAL, OP 0xB (spec R103). -/
def execIllegalB (s : State) : Host.Outcome State Fault Refusal := raiseUnknownOperation s

/-- ILLEGAL, OP 0xC (spec R103). -/
def execIllegalC (s : State) : Host.Outcome State Fault Refusal := raiseUnknownOperation s

/-- ILLEGAL, OP 0xD (spec R103). -/
def execIllegalD (s : State) : Host.Outcome State Fault Refusal := raiseUnknownOperation s

/-- ILLEGAL, OP 0xE (spec R103). -/
def execIllegalE (s : State) : Host.Outcome State Fault Refusal := raiseUnknownOperation s

/-- ILLEGAL, OP 0xF (spec R103). -/
def execIllegalF (s : State) : Host.Outcome State Fault Refusal := raiseUnknownOperation s

end Sys2Proof.Machine
end

