-- ==== Sys2Proof/Machine/Reading.lean ====
section
/-! DEFINITION. READING (spec R92 to R95): the phases in their order, the staged Reading and the commit. -/

namespace Sys2Proof.Machine

/-- The descriptors in use, in ascending order (spec R92). -/
def State.fields (s : State) : List Nat := List.range s.nf.toNat

/-- Do two byte spans intersect (spec R92 phase 3, R94)? -/
def overlaps (d e : Desc) : Bool := descOff d < descEnd e && descOff e < descEnd d

/-- Overlap of descriptor `k` with an earlier one (spec R94 item 1). -/
def overlapFailure (s : State) (k : Nat) : Option Failure :=
  if (List.range k).any fun j => overlaps (s.descAt k) (s.descAt j) then some (fieldFailure s .descriptor k) else none

/-- The sum of the spans of the descriptors in use (spec R94 item 2). -/
def State.totalSpan (s : State) : Nat := (s.fields.map fun k => 3 * descWcnt (s.descAt k)).sum

/-- Coverage (spec R94 item 2): ERRK = NF and ERRTAG = 0. -/
def coverageFailure (s : State) : Option Failure :=
  if s.totalSpan ≠ s.flen.toNat then some ⟨.descriptor, s.nf, 0⟩ else none

/-- Phases 1 to 3 (spec R92, R93): the first configuration error, if any. -/
def readingConfigFailure (s : State) : Option Failure :=
  (frameFailure s).or <| (s.fields.findSome? (configFailure s)).or <|
    (s.fields.findSome? (overlapFailure s)).or (coverageFailure s)

/-- Phase 4 (spec R92, R78): the words of each field, descriptors ascending, stopping at the first that fails. -/
def checkFields (s : State) : List Nat → Attempt Unit
  | [] => .ok ()
  | k :: ks =>
    match fieldWords s k with
    | .fault f => .fault f
    | .fail f => .fail f
    | .ok _ => checkFields s ks

/-- Phase 5 (spec R92): the staged Reading, `stage[k] <- field_decode(k)`. -/
def stageFields (s : State) : List Nat → Attempt (List Scalar)
  | [] => .ok []
  | k :: ks =>
    match fieldDecode s k with
    | .fault f => .fault f
    | .fail f => .fail f
    | .ok r =>
      match stageFields s ks with
      | .fault f => .fault f
      | .fail f => .fail f
      | .ok rs => .ok (r :: rs)

/-- READING up to the commit (spec R92, R93). -/
def readingResult (s : State) : Attempt (List Scalar) :=
  match readingConfigFailure s with
  | some f => .fail f
  | none =>
    match checkFields s s.fields with
    | .fault f => .fault f
    | .fail f => .fail f
    | .ok _ => stageFields s s.fields

/-- The RD registers after a commit (spec R92): the staged Reading, then zeros up to MAX_FIELDS. -/
def committedFields (s : State) (stage : List Scalar) : List Scalar :=
  (List.range s.params.maxFields).map fun k => if k < s.nf.toNat then stage.getD k Scalar.empty else Scalar.empty

/-- READING (spec R92): all or nothing (spec R95). -/
def execReading (s : State) : Host.Outcome State Fault Refusal :=
  match readingResult s with
  | .fault f => .fault f
  | .fail f => .next (s.dropReading.raise f)
  | .ok stage => .next ((s.commitReading s.nf (committedFields s stage)).finishOk true)

end Sys2Proof.Machine
end

