-- ==== Sys2Proof/Machine/WordCodec.lean ====
section
/-! DEFINITION. The word codec commands WENC and WDEC (spec R70, R71). -/

namespace Sys2Proof.Machine

/-- The wire group of a 16-bit value (spec R70): high byte, low byte, checksum of the two. -/
def wireGroup (v : Word) : Group :=
  ⟨v.extractLsb' 8 8, v.extractLsb' 0 8, crc8 (v.extractLsb' 8 8) (v.extractLsb' 0 8)⟩

/-- A group as ENC_OUT packs it (spec R21): hi in [23:16], lo in [15:8], checksum in [7:0]. -/
def Group.pack (g : Group) : BitVec 24 := g.hi ++ g.lo ++ g.ck

/-- WENC (spec R70). -/
def execWenc (v : Word) (s : State) : Host.Outcome State Fault Refusal :=
  .next (((s.setEncOut (wireGroup v).pack).setCrcOut (wireGroup v).ck).finishOk true)

/-- The number of whole groups in the frame: FLEN / 3 (spec R71). -/
def State.frameWords (s : State) : Nat := s.flen.toNat / 3

/-- WVAL[j] after a successful WDEC (spec R71). For `j < MAX_WORDS` the group read lies in FB. -/
def wdecValue (s : State) (j : Nat) : Word := if j < s.frameWords then (groupAt s.fb (3 * j)).value else 0

/-- WOK[j] after a successful WDEC (spec R71). -/
def wdecOk (s : State) (j : Nat) : Bool := decide (j < s.frameWords) && (groupAt s.fb (3 * j)).ok

/-- The conjunction of the WOK[j] of the decoded words (spec R71's `all`): 1 when there is none. -/
def wdecAll (s : State) : Bool :=
  (List.range s.params.maxWords).all fun j => !decide (j < s.frameWords) || wdecOk s j

/-- WDEC (spec R71). -/
def execWdec (s : State) : Host.Outcome State Fault Refusal :=
  if s.flen.toNat % 3 ≠ 0 then .next (s.clearWords.raise ⟨.frameLength, 0, 0⟩)
  else
    .next ((s.setWords (BitVec.ofNat 8 s.frameWords) ((List.range s.params.maxWords).map (wdecValue s))
      ((List.range s.params.maxWords).map (wdecOk s))).finishOk (wdecAll s))

end Sys2Proof.Machine
end

