-- ==== Sys2Proof/Machine/Dispatch.lean ====
section
/-! DEFINITION. The meaning of every command, one arm per row of spec/opcode_table.json. -/

namespace Sys2Proof.Machine

-- The execution of one command as one atomic step (spec R11, R45).
def exec (i : Instr) (s : State) : Host.Outcome State Fault Refusal :=
  match i with
  | .crc8 a b => Sys2Proof.Machine.execCrc8 a b s
  | .check a b c => Sys2Proof.Machine.execCheck a b c s
  | .wenc v => Sys2Proof.Machine.execWenc v s
  | .wdec => Sys2Proof.Machine.execWdec s
  | .extract k => Sys2Proof.Machine.execExtract k s
  | .reading => Sys2Proof.Machine.execReading s
  | .illegal0 => Sys2Proof.Machine.execIllegal0 s
  | .illegal7 => Sys2Proof.Machine.execIllegal7 s
  | .illegal8 => Sys2Proof.Machine.execIllegal8 s
  | .illegal9 => Sys2Proof.Machine.execIllegal9 s
  | .illegalA => Sys2Proof.Machine.execIllegalA s
  | .illegalB => Sys2Proof.Machine.execIllegalB s
  | .illegalC => Sys2Proof.Machine.execIllegalC s
  | .illegalD => Sys2Proof.Machine.execIllegalD s
  | .illegalE => Sys2Proof.Machine.execIllegalE s
  | .illegalF => Sys2Proof.Machine.execIllegalF s

end Sys2Proof.Machine
end

