-- ==== Sys2Proof/Machine/Flags.lean ====
section
/-! DEFINITION. The codes of the enumerated fields, and STATUS as one word. The block's two flags (spec R28) are
`State.status.valid` and `State.rvalid`. -/

namespace Sys2Proof.Machine

/-- The code of an error in STATUS.ERR (spec R19, R101). -/
def ErrCode.code : ErrCode → BitVec 4
  | .ok => 0
  | .frameLength => 1
  | .checksum => 2
  | .unknownOperation => 3
  | .descriptor => 4
  | .fieldRange => 5

/-- The code of a kind in R_KIND and RD_KIND (spec R22). -/
def Kind.code : Kind → BitVec 2
  | .none => 0
  | .float32 => 1
  | .rational => 2

/-- STATUS as the host reads it (spec R19): ERRTAG [23:16], ERRK [15:8], the RVALID mirror [5], VALID [4], ERR [3:0], and
0 in the reserved bits [31:24] and [7:6]. -/
def State.statusWord (s : State) : BitVec 32 :=
  0#8 ++ s.status.errTag ++ s.status.errK ++ 0#2 ++ BitVec.ofBool s.rvalid ++ BitVec.ofBool s.status.valid ++
    s.status.err.code

end Sys2Proof.Machine
end

