-- ==== Sys2Proof/Machine/HostPort.lean ====
section
/-! DEFINITION. The host port (spec R15 to R18, R40 to R45): the register map, a host read, a host write, and the taking
of the oldest access the host has issued. A host write to CMD executes a command. -/

namespace Sys2Proof.Machine

/-- A register of the map of spec R16, by name. -/
inductive Reg where
  | cmd | status | crcOut | encOut | rKind | rBits | rNum | rDen | rTag | flen | nw | nf | rvalid | rnf
  | fb (i : Nat)
  | wval (j : Nat)
  | wok (j : Nat)
  | desc (k : Nat)
  | rdKind (k : Nat)
  | rdBits (k : Nat)
  | rdNum (k : Nat)
  | rdDen (k : Nat)
  | rdTag (k : Nat)
  deriving DecidableEq, Repr

/-- Does the map hold the register (spec R16)? The arrays have the capacity the parameters give. -/
def Reg.mapped (p : Params) : Reg → Bool
  | .cmd | .status | .crcOut | .encOut | .rKind | .rBits | .rNum | .rDen | .rTag => true
  | .flen | .nw | .nf | .rvalid | .rnf => true
  | .fb i => i < p.maxFrameBytes
  | .wval j | .wok j => j < p.maxWords
  | .desc k | .rdKind k | .rdBits k | .rdNum k | .rdDen k | .rdTag k => k < p.maxFields

/-- The index of a register (spec R16). -/
def Reg.index : Reg → Nat
  | .cmd => 0x000
  | .status => 0x001
  | .crcOut => 0x002
  | .encOut => 0x003
  | .rKind => 0x004
  | .rBits => 0x005
  | .rNum => 0x006
  | .rDen => 0x007
  | .rTag => 0x008
  | .flen => 0x009
  | .nw => 0x00A
  | .nf => 0x00B
  | .rvalid => 0x00C
  | .rnf => 0x00D
  | .fb i => 0x100 + i
  | .wval j => 0x200 + j
  | .wok j => 0x280 + j
  | .desc k => 0x300 + k
  | .rdKind k => 0x400 + k
  | .rdBits k => 0x440 + k
  | .rdNum k => 0x480 + k
  | .rdDen k => 0x4C0 + k
  | .rdTag k => 0x500 + k

/-- The index of a register as the host puts it on the port. -/
def Reg.port (r : Reg) : RegIndex := BitVec.ofNat 16 r.index

/-- The width of a register in bits (spec R16). -/
def Reg.width : Reg → Nat
  | .cmd | .status | .rBits | .rdBits _ => 32
  | .crcOut | .rTag | .flen | .nw | .nf | .rnf | .fb _ | .rdTag _ => 8
  | .encOut => 24
  | .rKind | .rdKind _ => 2
  | .rNum | .desc _ | .rdNum _ => 64
  | .rDen | .wval _ | .rdDen _ => 16
  | .rvalid | .wok _ => 1

/-- The Access column of spec R16. -/
inductive Access where
  /-- R: a host write is ignored. -/
  | readOnly
  /-- RW: a host write stores the value, subject to the register's legality rule. -/
  | readWrite
  /-- W: a host write triggers a command, and a host read returns 0. -/
  | command
  deriving DecidableEq, Repr

/-- The access of a register (spec R16). -/
def Reg.access : Reg → Access
  | .cmd => .command
  | .flen | .nf | .fb _ | .desc _ => .readWrite
  | .status | .crcOut | .encOut | .rKind | .rBits | .rNum | .rDen | .rTag => .readOnly
  | .nw | .rvalid | .rnf | .wval _ | .wok _ => .readOnly
  | .rdKind _ | .rdBits _ | .rdNum _ | .rdDen _ | .rdTag _ => .readOnly

/-- The registers below index 0x100. -/
def scalarRegs : List Reg :=
  [.cmd, .status, .crcOut, .encOut, .rKind, .rBits, .rNum, .rDen, .rTag, .flen, .nw, .nf, .rvalid, .rnf]

/-- The array element an index of 0x100 or more would name, whatever the capacity (spec R16). -/
def arrayReg (n : Nat) : Option Reg :=
  if n < 0x100 then none
  else if n < 0x200 then some (.fb (n - 0x100))
  else if n < 0x280 then some (.wval (n - 0x200))
  else if n < 0x300 then some (.wok (n - 0x280))
  else if n < 0x400 then some (.desc (n - 0x300))
  else if n < 0x440 then some (.rdKind (n - 0x400))
  else if n < 0x480 then some (.rdBits (n - 0x440))
  else if n < 0x4C0 then some (.rdNum (n - 0x480))
  else if n < 0x500 then some (.rdDen (n - 0x4C0))
  else some (.rdTag (n - 0x500))

/-- The register an index names under the parameters `p`, if the map has one there (spec R16, R17). The bounds of spec R7
keep the arrays inside their ranges. -/
def regAt (p : Params) (index : RegIndex) : Option Reg :=
  ((scalarRegs[index.toNat]?).or (arrayReg index.toNat)).filter (Reg.mapped p)

/-- RD[k], all five registers of it (spec R27). -/
def State.rdAt (s : State) (k : Nat) : Scalar := s.rd.getD k Scalar.empty

/-- The value of a register, zero-extended to 64 bits (spec R15). CMD keeps no value and reads 0 (spec R18). -/
def readReg (s : State) : Reg → HostWord
  | .cmd => 0
  | .status => s.statusWord.setWidth 64
  | .crcOut => s.crcOut.setWidth 64
  | .encOut => s.encOut.setWidth 64
  | .rKind => s.single.kind.code.setWidth 64
  | .rBits => s.single.bits.setWidth 64
  | .rNum => s.single.num
  | .rDen => s.single.den.setWidth 64
  | .rTag => s.single.tag.setWidth 64
  | .flen => s.flen.setWidth 64
  | .nw => s.nw.setWidth 64
  | .nf => s.nf.setWidth 64
  | .rvalid => (BitVec.ofBool s.rvalid).setWidth 64
  | .rnf => s.rnf.setWidth 64
  | .fb i => (s.fb.read i).setWidth 64
  | .wval j => (s.wval.getD j 0).setWidth 64
  | .wok j => (BitVec.ofBool (s.wok.getD j false)).setWidth 64
  | .desc k => s.descAt k
  | .rdKind k => (s.rdAt k).kind.code.setWidth 64
  | .rdBits k => (s.rdAt k).bits.setWidth 64
  | .rdNum k => (s.rdAt k).num
  | .rdDen k => (s.rdAt k).den.setWidth 64
  | .rdTag k => (s.rdAt k).tag.setWidth 64

/-- A host read (spec R15): an index that the map does not hold reads 0 (spec R17). -/
def hostRead (s : State) (index : RegIndex) : HostWord :=
  match regAt s.params index with
  | none => 0
  | some r => readReg s r

/-- A host write to a register: the register keeps the low bits of the value (spec R15), FLEN and NF only a legal one
(spec R23, R25). A write to CMD executes the command `v[31:0]` (spec R18), and a write to an R register is ignored
(spec R17). -/
def writeReg (s : State) (v : HostWord) : Reg → Host.Outcome State Fault Refusal
  | .cmd => exec (decode (v.setWidth 32)) s
  | .flen => .next (s.writeFlen (v.setWidth 8))
  | .nf => .next (s.writeNf (v.setWidth 8))
  | .fb i => .next (s.writeFb i (v.setWidth 8))
  | .desc k => .next (s.writeDesc k v)
  | .status | .crcOut | .encOut | .rKind | .rBits | .rNum | .rDen | .rTag => .next s
  | .nw | .rvalid | .rnf | .wval _ | .wok _ => .next s
  | .rdKind _ | .rdBits _ | .rdNum _ | .rdDen _ | .rdTag _ => .next s

/-- A host write (spec R15): ignored at an index that the map does not hold (spec R17). -/
def hostWrite (s : State) (index : RegIndex) (v : HostWord) : Host.Outcome State Fault Refusal :=
  match regAt s.params index with
  | none => .next s
  | some r => writeReg s v r

/-- One event of the host's side, whole (spec R40, R44). A read changes no register (spec R41). -/
def perform (s : State) : HostEvent → Host.Outcome State Fault Refusal
  | .read index => .next (s.setReadData (hostRead s index))
  | .write index v => hostWrite s index v
  | .reset => .next s.resetRegisters

/-- The events of a list, one after the other, in the order the host issues them (spec R44). -/
def performAll (s : State) : List HostEvent → Host.Outcome State Fault Refusal
  | [] => .next s
  | e :: es =>
    match perform s e with
    | .next t => performAll t es
    | .fault f => .fault f
    | .refused r => .refused r

/-- The block takes the oldest access the host has issued (spec R44). With none issued nothing happens: the block has no
step that the host did not cause (spec R13). That the accesses stand in State, and that the step of an idle block leaves
it as it is, is the model's own (DESIGN CHOICE, log entry 1). -/
def performNext (s : State) : Host.Outcome State Fault Refusal :=
  match s.inbox with
  | [] => .next s
  | e :: rest => perform (s.setInbox rest) e

/-- The host issues a command next: a write of the command word to CMD, ahead of whatever else it has issued. -/
def State.issueCommand (s : State) (v : HostWord) : State := s.setInbox (.write Reg.cmd.port v :: s.inbox)

end Sys2Proof.Machine
end

