-- ==== Sys2Proof/Machine/Step.lean ====
section
/-! DEFINITION. One step of the machine, and how an instruction is placed so that the next step runs it. -/

namespace Sys2Proof.Machine

/-- One step: the block takes the oldest host access (spec R13, R44, R45). -/
def step (s : State) : Host.Outcome State Fault Refusal := performNext s

/-- The host has issued, next, a write to CMD of the row's bits: the block fetches no instruction (spec R48), and a
command exists only as the value of such a write (DESIGN CHOICE, log entry 1). -/
def State.withFetchWord (s : State) (nbits w : Nat) : State := s.issueCommand (BitVec.ofNat 64 (w % 2 ^ nbits))

end Sys2Proof.Machine
end

