-- ==== Sys2Proof/Machine/Assembler.lean ====
section
/-! DEFINITION. A program for the block is a sequence of host actions (spec R61). This file gives the host actions an
assembly line stands for: a block command (spec R61 to R63) or a host directive (spec R64). -/

namespace Sys2Proof.Machine

/-- The operands of the `desc` directive (spec R64), each of its field's width (DESIGN CHOICE, log entry
11). Omitted fields are 0. -/
structure DescLine where
  off : Byte := 0
  wcnt : BitVec 2 := 0
  /-- 0 for `float32`, 1 for `fixed`, 2 for `idiv`. -/
  mode : BitVec 2 := 0
  tag : Byte := 0
  /-- S or D, as `u16`. -/
  scaleOrDiv : BitVec 16 := 0
  /-- F, as `u16`. -/
  offs : BitVec 16 := 0
  deriving DecidableEq, Repr

/-- The descriptor word of the `desc` directive (spec R64, R56). -/
def DescLine.word (l : DescLine) : Desc :=
  l.offs ++ l.scaleOrDiv ++ 0#8 ++ l.tag ++ 0#4 ++ l.mode ++ l.wcnt ++ l.off

/-- One line of a program (spec R61, R64). The spec gives the operands of `frame` no range: here each is a byte, and the
value of `wr` and the `n` of `fields` are any 64-bit values (DESIGN CHOICE, log entry 11). -/
inductive AsmLine where
  | command (c : AsmCommand)
  | wr (r : Reg) (v : HostWord)
  | rd (r : Reg)
  | frame (bytes : List Byte)
  | desc (k : Nat) (l : DescLine)
  | fields (n : HostWord)
  deriving DecidableEq, Repr

/-- `wr NAME, v` (spec R64). -/
def writeEvent (r : Reg) (v : HostWord) : HostEvent := .write r.port v

/-- The writes of `frame b0, ..., b(n-1)` (spec R64): FB[0] to FB[n-1], then FLEN. -/
def frameEvents (bytes : List Byte) : List HostEvent :=
  (bytes.zipIdx.map fun b => writeEvent (.fb b.2) (b.1.setWidth 64)) ++ [writeEvent .flen (BitVec.ofNat 64 bytes.length)]

/-- The host accesses of a line, or `none` for a line the assembler refuses: an operand out of range (spec R61), a frame
longer than MAX_FRAME_BYTES (spec R64), or a name that the register map does not hold. -/
def AsmLine.events (p : Params) : AsmLine → Option (List HostEvent)
  | .command c => c.assemble.map fun w => [writeEvent .cmd (w.setWidth 64)]
  | .wr r v => if r.mapped p then some [writeEvent r v] else none
  | .rd r => if r.mapped p then some [.read r.port] else none
  | .frame bytes => if bytes.length ≤ p.maxFrameBytes then some (frameEvents bytes) else none
  | .desc k l => if (Reg.desc k).mapped p then some [writeEvent (.desc k) l.word] else none
  | .fields n => some [writeEvent .nf n]

/-- The host accesses of a program, or `none` if the assembler refuses a line. -/
def assembleProgram (p : Params) : List AsmLine → Option (List HostEvent)
  | [] => some []
  | l :: ls =>
    match l.events p, assembleProgram p ls with
    | some es, some rest => some (es ++ rest)
    | _, _ => none

end Sys2Proof.Machine
end

