-- ==== Sys2Proof/Safety.lean ====
section
/-! DEFINITION. What the statements are said in: the state invariant of the block, which registers two states agree on,
what a command may look at, and the names of the conditions of the rules. -/

namespace Sys2Proof.Machine

/-! ## The invariant -/

/-- STATUS as some command, or reset, left it (spec R101, R102): an error leaves VALID = 0, and only an error that names
a field leaves an index or a TAG. -/
abbrev Status.wf (t : Status) : Prop :=
  (t.err ≠ .ok → t.valid = false) ∧
  (t.err = .ok ∨ t.err = .frameLength ∨ t.err = .unknownOperation → t.errK = 0 ∧ t.errTag = 0)

/-- A scalar as a decode mode, or clearing, left it (spec R22, R86, D40). -/
abbrev Scalar.wf (r : Scalar) : Prop :=
  (r.kind = .none → r = Scalar.empty) ∧
  (r.kind = .float32 → r.num = 0 ∧ r.den = 0) ∧
  (r.kind = .rational → r.bits = 0 ∧ r.den ≠ 0 ∧ r.num.toInt.natAbs ≤ 4294901760)

/-- What every state that a run reaches meets (spec R7, R19, R22 to R27). -/
structure State.Inv (s : State) : Prop where
  params_legal : s.params.legal
  fb_wf : s.fb.wf
  fb_bound : ∀ c ∈ s.fb, c.1 < s.params.maxFrameBytes
  flen_le : s.flen.toNat ≤ s.params.maxFrameBytes
  nf_le : s.nf.toNat ≤ s.params.maxFields
  nw_le : s.nw.toNat ≤ s.params.maxWords
  rnf_le : s.rnf.toNat ≤ s.params.maxFields
  wval_length : s.wval.length = s.params.maxWords
  wok_length : s.wok.length = s.params.maxWords
  desc_length : s.desc.length = s.params.maxFields
  rd_length : s.rd.length = s.params.maxFields
  status_wf : s.status.wf
  single_wf : s.single.wf
  rd_wf : ∀ r ∈ s.rd, r.wf
  words_clear : ∀ j < s.params.maxWords, s.nw.toNat ≤ j → s.wval.getD j 0 = 0 ∧ s.wok.getD j false = false
  rd_filled : ∀ k < s.rnf.toNat, (s.rdAt k).kind ≠ .none
  rd_clear : ∀ k < s.params.maxFields, s.rnf.toNat ≤ k → s.rdAt k = Scalar.empty

/-! ## What a command leaves unchanged -/

/-- The two states agree on every register of the map outside the list (an array element counts as a register of its
own), on the parameters and on the host's side of the port. -/
def SameExcept (regs : List Reg) (s t : State) : Prop :=
  (∀ r : Reg, r.mapped s.params → r ∉ regs → readReg t r = readReg s r) ∧
  t.params = s.params ∧ t.inbox = s.inbox ∧ t.readData = s.readData

/-- The single-result registers (spec R22). -/
def singleRegs : List Reg := [.rKind, .rBits, .rNum, .rDen, .rTag]

/-- NW, WVAL[0..MAX_WORDS-1] and WOK[0..MAX_WORDS-1] (spec R24). -/
def wordRegs (p : Params) : List Reg :=
  .nw :: ((List.range p.maxWords).map Reg.wval ++ (List.range p.maxWords).map Reg.wok)

/-- RVALID, RNF and the RD_* registers (spec R27). -/
def readingRegs (p : Params) : List Reg :=
  .rvalid :: .rnf :: (List.range p.maxFields).flatMap fun k => [.rdKind k, .rdBits k, .rdNum k, .rdDen k, .rdTag k]

/-- The registers a command may write, whatever its outcome (spec R67 to R103, decision D33). -/
def footprint (p : Params) : Instr → List Reg
  | .crc8 _ _ => [.status, .crcOut]
  | .check _ _ _ => [.status, .crcOut]
  | .wenc _ => [.status, .crcOut, .encOut]
  | .wdec => .status :: wordRegs p
  | .extract _ => .status :: singleRegs
  | .reading => .status :: readingRegs p
  | .illegal0 | .illegal7 | .illegal8 | .illegal9 | .illegalA => [.status]
  | .illegalB | .illegalC | .illegalD | .illegalE | .illegalF => [.status]

/-- Command `i` ends in state `t`, and has written no register outside the list and no byte of the frame buffer. -/
def RunsTo (i : Instr) (s t : State) (regs : List Reg) : Prop :=
  exec i s = .next t ∧ SameExcept regs s t ∧ ∀ a, t.fb.read a = s.fb.read a

/-- What a failing command writes beside STATUS (spec R99): WDEC clears the word registers, EXTRACT the single-result
registers, READING clears RVALID, and an illegal opcode writes nothing else. CRC8, CHECK and WENC do not fail. -/
def failureWrites : Instr → State → State
  | .wdec, s => s.clearWords
  | .extract _, s => s.clearSingle
  | .reading, s => s.dropReading
  | .crc8 _ _, s | .check _ _ _, s | .wenc _, s => s
  | .illegal0, s | .illegal7, s | .illegal8, s | .illegal9, s | .illegalA, s => s
  | .illegalB, s | .illegalC, s | .illegalD, s | .illegalE, s | .illegalF, s => s

/-- The same outcome but for a change of the state reached. -/
def mapNext (f : State → State) : Host.Outcome State Fault Refusal → Host.Outcome State Fault Refusal
  | .next t => .next (f t)
  | .fault e => .fault e
  | .refused e => .refused e

/-! ## The conditions of the rules -/

/-- Word `j` of descriptor `k`'s field, as it stands in the frame (spec R74). -/
def fieldGroup (s : State) (k j : Nat) : Group := groupAt s.fb (descOff (s.descAt k) + 3 * j)

/-- Descriptor `k` passes the structure and the range check (spec R76, R77). -/
def FieldLegal (s : State) (k : Nat) : Prop :=
  structureFails (s.descAt k) = false ∧ descEnd (s.descAt k) ≤ s.flen.toNat

/-- Every word of descriptor `k`'s field is valid (spec R74). -/
def FieldValid (s : State) (k : Nat) : Prop := ∀ j < descWcnt (s.descAt k), (fieldGroup s k j).ok = true

/-- The layout of the descriptors in use is legal (spec R94): the spans are disjoint and add up to FLEN. -/
def LayoutLegal (s : State) : Prop :=
  (∀ k < s.nf.toNat, ∀ j < k, overlaps (s.descAt k) (s.descAt j) = false) ∧ s.totalSpan = s.flen.toNat

/-- Every configuration check of a READING passes (spec R93, items 1 to 3). -/
def TableLegal (s : State) : Prop :=
  s.flen.toNat % 3 = 0 ∧ (∀ k < s.nf.toNat, FieldLegal s k) ∧ LayoutLegal s

/-- Two descriptors agree on every bit that a mode uses (spec R56, R59, R60): they may differ in the reserved bits [15:12]
and [31:24], in [63:48] unless the mode is FIXED, and in [47:32] unless the mode is FIXED or IDIV. -/
def SameUsedBits (d e : Desc) : Prop :=
  d.extractLsb' 0 12 = e.extractLsb' 0 12 ∧ d.extractLsb' 16 8 = e.extractLsb' 16 8 ∧
  (descMode d = .fixed ∨ descMode d = .idiv → d.extractLsb' 32 16 = e.extractLsb' 32 16) ∧
  (descMode d = .fixed → d.extractLsb' 48 16 = e.extractLsb' 48 16)

/-- The bits of a three-byte wire group in the order they are sent, `a` first and its high bit first (spec R66 item 4):
the group with the bits of `e` changed. -/
def changedGroup (g : Group) (e : BitVec 24) : Group :=
  ⟨g.hi ^^^ e.extractLsb' 16 8, g.lo ^^^ e.extractLsb' 8 8, g.ck ^^^ e.extractLsb' 0 8⟩

/-- The change of exactly the bits at the listed positions. -/
def changeAt (ps : List Nat) : BitVec 24 := ps.foldl (fun e p => e ^^^ (1#24 <<< p)) 0

/-- The valid wire group of a byte pair. -/
def validGroup (a b : Byte) : Group := ⟨a, b, crc8 a b⟩

end Sys2Proof.Machine
end

