-- ==== Sys2Proof/Certificates/Slice0/Obligations.lean ====
section
/-! DEFINITION. The statements about the block, each from the numbered rules of the spec that its docstring names. -/

open Sys2Proof Sys2Proof.Machine

/-! ## Encoding -/

/-- R51, R52, R62: the encoder's word decodes to the command, for every command with every operand. -/
def Obligations.DecodeInvertsEncode : Prop :=
  ∀ i : Instr, i.wellFormed = true → decode (encode i) = i

/-- R51, R52, R62: a word decodes to a command exactly when it is the command's word up to the bits its format ignores. -/
def Obligations.DecodeIsEncodeUpToIgnoredBits : Prop :=
  (∀ (w : Command) (i : Instr), decode w = i ↔ w &&& ~~~(ignoredMask i) = encode i) ∧
  ∀ i : Instr, encode i &&& ignoredMask i = 0

/-- R53, R54: every word selects exactly one row of the opcode map, by `cmd[31:28]` alone, and decodes to that row's
command; OP 0x0 and 0x7 to 0xF are the illegal rows. -/
def Obligations.EveryWordSelectsOneOpcodeRow : Prop :=
  (∀ w : Command, ∃! r, r ∈ opcodeTable ∧ r.selects w = true) ∧
  (∀ w : Command, ∀ r ∈ opcodeTable, r.selects w = true → r.mnemonic = (decode w).mnemonic) ∧
  (∀ w : Command, ∀ r ∈ opcodeTable, r.selects w = true ↔ w.extractLsb' 28 4 = r.pattern.extractLsb' 28 4) ∧
  ∀ w : Command, (decode w).mnemonic = "ILLEGAL" ↔
    (w.extractLsb' 28 4).toNat = 0 ∨ 7 ≤ (w.extractLsb' 28 4).toNat

/-- R51, R53: words written out from the formats decode to the commands they stand for. -/
def Obligations.WrittenOutWordsDecode : Prop :=
  decode 0b0001_0000_00000000_10111110_11101111 = .crc8 0xBE 0xEF ∧
  decode 0b0001_1111_11111111_10111110_11101111 = .crc8 0xBE 0xEF ∧
  decode 0b0010_0000_10010010_10111110_11101111 = .check 0xBE 0xEF 0x92 ∧
  decode 0b0011_000000000000_1011111011101111 = .wenc 0xBEEF ∧
  decode 0b0100_0000000000000000000000000000 = .wdec ∧
  decode 0b0101_00000000000000000000_11111111 = .extract 255 ∧
  decode 0b0110_0000000000000000000000000000 = .reading ∧
  decode 0b0111_1111111111111111111111111111 = .illegal7 ∧
  decode 0 = .illegal0

/-- R61, R63: the word of each assembly line whose operands are in range, and the refusal of every other. -/
def Obligations.AssemblerWordsAndRefusals : Prop :=
  (∀ a b, (AsmCommand.crc8 a b).assemble.map BitVec.toNat =
    if a ≤ 255 ∧ b ≤ 255 then some (0x10000000 + 0x100 * a + b) else none) ∧
  (∀ a b c, (AsmCommand.check a b c).assemble.map BitVec.toNat =
    if a ≤ 255 ∧ b ≤ 255 ∧ c ≤ 255 then some (0x20000000 + 0x10000 * c + 0x100 * a + b) else none) ∧
  (∀ v, (AsmCommand.wenc v).assemble.map BitVec.toNat = if v ≤ 65535 then some (0x30000000 + v) else none) ∧
  AsmCommand.wdec.assemble = some 0x40000000 ∧
  (∀ k, (AsmCommand.extract k).assemble.map BitVec.toNat = if k ≤ 255 then some (0x50000000 + k) else none) ∧
  AsmCommand.reading.assemble = some 0x60000000 ∧
  (∀ v, (AsmCommand.crc8w v).assemble = if v ≤ 65535 then (AsmCommand.crc8 (v / 256) (v % 256)).assemble else none) ∧
  (∀ v c, (AsmCommand.checkw v c).assemble =
    if v ≤ 65535 then (AsmCommand.check (v / 256) (v % 256) c).assemble else none)

/-- R56, R64: the `desc` directive puts each operand in its field of the descriptor word. -/
def Obligations.DescDirectivePlacesTheFields : Prop :=
  ∀ l : DescLine,
    descOff l.word = l.off.toNat ∧ descWcnt l.word = l.wcnt.toNat ∧ descTag l.word = l.tag ∧
    descDiv l.word = l.scaleOrDiv ∧ descScale l.word = l.scaleOrDiv.toInt ∧ descOffs l.word = l.offs.toInt ∧
    (descMode l.word = .float32 ↔ l.mode = 0) ∧ (descMode l.word = .fixed ↔ l.mode = 1) ∧
    (descMode l.word = .idiv ↔ l.mode = 2) ∧ l.word.extractLsb' 12 4 = 0 ∧ l.word.extractLsb' 24 8 = 0

/-! ## The step, reset and the host port -/

/-- R18: a host write of `v` to CMD executes the command `v[31:0]`; CMD keeps no value and reads 0. -/
def Obligations.CommandPortExecutesTheWord : Prop :=
  Reg.cmd.index = 0x000 ∧ Reg.cmd.width = 32 ∧ Reg.cmd.access = .command ∧
  (∀ (s : State) (v : HostWord), perform s (.write 0x000 v) = exec (decode (v.extractLsb' 0 32)) s) ∧
  ∀ s : State, hostRead s 0x000 = 0

/-- A step runs the decoded command: when the oldest access of the host is a write to CMD of a word that decodes to `i`, the
step is `exec i` with that access taken. That the host's accesses stand in State is the model's choice (log entry 1). -/
def Obligations.StepRunsTheIssuedCommand : Prop :=
  ∀ (s : State) (v : HostWord) (rest : List HostEvent) (i : Instr), s.inbox = .write 0x000 v :: rest →
    decode (v.extractLsb' 0 32) = i → step s = exec i (s.setInbox rest)

/-- The model's choice (log entry 1): the word that the decoder reads as `i` runs as `i` when it is placed for the next
step. -/
def Obligations.PlacedWordIsDecodedAndRun : Prop :=
  ∀ (s : State) (nbits w : Nat) (i : Instr), decodeTableWord nbits w = some i →
    step (s.withFetchWord nbits w) = exec i s

/-- R44: the block takes the host's accesses one by one, oldest first, whole, and changes neither the accesses still to
come nor its parameters. The model's choices, which R13 and R44 do not say: that a step with an empty inbox changes
nothing (log entry 1), and that the reset input keeps the accesses still to come (log entry 3). -/
def Obligations.StepTakesTheOldestAccess : Prop :=
  (∀ s : State, s.inbox = [] → step s = .next s) ∧
  ∀ (s : State) (e : HostEvent) (rest : List HostEvent), s.inbox = e :: rest →
    step s = perform (s.setInbox rest) e ∧ ∀ t, step s = .next t → t.inbox = rest ∧ t.params = s.params

/-- R44, over the model's inbox (log entry 1): running the machine as many steps as the host has issued accesses comes to
the same as the accesses one after the other. That the accesses after a reset input among them still run is the model's
choice (log entry 3). -/
def Obligations.RunTakesTheAccessesInOrder : Prop :=
  ∀ (s : State) (es : List HostEvent),
    Sys2Proof.core.run es.length (s.setInbox es) = mapNext (fun t => t.setInbox []) (performAll s es)

/-- R111: reset sets every register to its reset value, and all those values are 0. -/
def Obligations.ResetClearsEveryRegister : Prop :=
  (∀ s : State, ∃ t, perform s .reset = .next t ∧
    t.status = ⟨.ok, false, 0, 0⟩ ∧ t.single = ⟨.none, 0, 0, 0, 0⟩ ∧
    (∀ r : Reg, readReg t r = 0) ∧ ∀ index, hostRead t index = 0) ∧
  ∀ r : Reg, readReg State.reset r = 0

/-- R114 items 1 and the empty Reading of R92: what the commands that need set-up do right after reset. -/
def Obligations.CommandsRightAfterReset : Prop :=
  structureFails 0 = true ∧
  (∀ p : Params, ∃ t, exec .reading (State.resetWith p) = .next t ∧ t.rvalid = true ∧ t.rnf = 0 ∧
    t.statusWord = 0x00000030) ∧
  ∀ (p : Params) (k : Byte), ∃ t, exec (.extract k) (State.resetWith p) = .next t ∧
    t.status = ⟨.descriptor, false, k, 0⟩ ∧ t.single = Scalar.empty

/-- R16, R17: under legal parameters each register of the map has one index, and each index names at most one. -/
def Obligations.RegisterMapIsOneToOne : Prop :=
  ∀ p : Params, p.legal →
    (∀ r : Reg, r.mapped p = true → regAt p r.port = some r ∧ r.port.toNat = r.index) ∧
    ∀ (index : RegIndex) (r : Reg), regAt p index = some r → r.mapped p = true ∧ r.port = index

/-- R41: a host read changes no register and is idempotent, and a host write to an index other than CMD changes only the
register at that index. -/
def Obligations.OnlyCommandWritesHaveSideEffects : Prop :=
  (∀ (s : State) (index : RegIndex), ∃ t, perform s (.read index) = .next t ∧ t.readData = hostRead s index ∧
    (∀ r : Reg, readReg t r = readReg s r) ∧ ∀ i, hostRead t i = hostRead s i) ∧
  ∀ (s : State) (index : RegIndex) (v : HostWord), s.Inv → index ≠ Reg.cmd.port →
    ∃ t, perform s (.write index v) = .next t ∧ SameExcept (regAt s.params index).toList s t

/-- R17: reads of an unmapped index return 0; writes to an unmapped index or to an R register change nothing. -/
def Obligations.UnmappedAndReadOnlyAccessesAreHarmless : Prop :=
  (∀ (s : State) (index : RegIndex), regAt s.params index = none →
    perform s (.read index) = .next (s.setReadData 0) ∧ ∀ v, perform s (.write index v) = .next s) ∧
  ∀ (s : State) (index : RegIndex) (r : Reg), regAt s.params index = some r → r.access = .readOnly →
    ∀ v, perform s (.write index v) = .next s

/-- R15: a host access moves one whole register. A read returns its value zero-extended, so a value of its width; a legal
write to an RW register (the legality rules are R23 and R25) keeps the low bits of the value, reads back, and changes no
other register. -/
def Obligations.HostAccessesMoveWholeRegisters : Prop :=
  (∀ (s : State) (r : Reg), s.params.legal → r.mapped s.params = true →
    hostRead s r.port = readReg s r ∧ (readReg s r).toNat < 2 ^ r.width) ∧
  ∀ (s : State) (r : Reg) (v : HostWord), s.Inv → r.mapped s.params = true → r.access = .readWrite →
    (r = .flen → v.toNat % 256 ≤ s.params.maxFrameBytes) → (r = .nf → v.toNat % 256 ≤ s.params.maxFields) →
    ∃ t, perform s (.write r.port v) = .next t ∧ (hostRead t r.port).toNat = v.toNat % 2 ^ r.width ∧
      SameExcept [r] s t

/-- R23: FLEN takes every value up to MAX_FRAME_BYTES, ignores a write above it, and is written by no command. -/
def Obligations.FlenKeepsLegalValues : Prop :=
  (∀ (s : State) (v : HostWord), perform s (.write 0x009 v) =
    if s.params.maxFrameBytes < v.toNat % 256 then .next s else .next { s with flen := v.extractLsb' 0 8 }) ∧
  ∀ (i : Instr) (s t : State), exec i s = .next t → t.flen = s.flen

/-- R25: NF ignores a write above MAX_FIELDS, DESC[k] takes any value and reads it back, and no command writes either. -/
def Obligations.DescriptorTableIsTheHosts : Prop :=
  (∀ (s : State) (v : HostWord), perform s (.write 0x00B v) =
    if s.params.maxFields < v.toNat % 256 then .next s else .next { s with nf := v.extractLsb' 0 8 }) ∧
  (∀ (s : State) (k : Nat) (d : Desc), s.Inv → k < s.params.maxFields →
    ∃ t, perform s (.write (Reg.desc k).port d) = .next t ∧ hostRead t (Reg.desc k).port = d ∧
      SameExcept [.desc k] s t) ∧
  ∀ (i : Instr) (s t : State), exec i s = .next t → t.nf = s.nf ∧ t.desc = s.desc

/-- R40: a host write to 0x100 + i sets FB[i] to `v[7:0]`, changes no other byte and no other register, and reads back;
a host read of that index returns FB[i]. -/
def Obligations.FrameByteWrite : Prop :=
  ∀ (s : State) (i : Nat) (v : HostWord), s.Inv → i < s.params.maxFrameBytes →
    ∃ t, perform s (.write (BitVec.ofNat 16 (0x100 + i)) v) = .next t ∧
      (∀ a, t.fb.read a = if a = i then v.extractLsb' 0 8 else s.fb.read a) ∧
      t = { s with fb := t.fb } ∧ hostRead t (BitVec.ofNat 16 (0x100 + i)) = (v.extractLsb' 0 8).setWidth 64 ∧
      hostRead s (BitVec.ofNat 16 (0x100 + i)) = (s.fb.read i).setWidth 64

/-- R19: the fields of STATUS, its reserved bits and the RVALID mirror. -/
def Obligations.StatusWordFields : Prop :=
  ∀ s : State,
    (s.statusWord.extractLsb' 0 4).toNat =
      (match s.status.err with
        | .ok => 0 | .frameLength => 1 | .checksum => 2 | .unknownOperation => 3 | .descriptor => 4 | .fieldRange => 5) ∧
    s.statusWord.getLsbD 4 = s.status.valid ∧ s.statusWord.getLsbD 5 = s.rvalid ∧
    s.statusWord.extractLsb' 6 2 = 0 ∧ s.statusWord.extractLsb' 8 8 = s.status.errK ∧
    s.statusWord.extractLsb' 16 8 = s.status.errTag ∧ s.statusWord.extractLsb' 24 8 = 0

/-- R64: the `frame` directive's accesses leave the bytes in FB and their number in FLEN, and change nothing else.
That each operand is a byte is the model's choice (log entry 11). -/
def Obligations.FrameDirectiveLoadsTheFrame : Prop :=
  ∀ (s : State) (bytes : List Byte), s.Inv → bytes.length ≤ s.params.maxFrameBytes →
    ∃ es, (AsmLine.frame bytes).events s.params = some es ∧
      ∃ t, performAll s es = .next t ∧ t.flen.toNat = bytes.length ∧
        (∀ a, t.fb.read a = if a < bytes.length then bytes.getD a 0 else s.fb.read a) ∧
        t = { s with fb := t.fb, flen := t.flen }

/-! ## The checksum -/

/-- R66 items 1 to 3: the residue, the two bijections, and affinity. -/
def Obligations.ChecksumResidueBijectionAffinity : Prop :=
  (∀ a b : Byte, crcRun [a, b, crc8 a b] = 0) ∧
  (∀ a : Byte, Function.Bijective fun b => crc8 a b) ∧ (∀ b : Byte, Function.Bijective fun a => crc8 a b) ∧
  (∀ a b a' b' : Byte, crc8 (a ^^^ a') (b ^^^ b') = crc8 a b ^^^ crc8 a' b' ^^^ crc8 0 0) ∧ crc8 0 0 = 0x81

/-- R66 item 4: every change of 1, 2 or 3 bits of a valid group, and every change inside 8 consecutive bits, makes it
invalid; of the changes of exactly 4 bits, 80 leave it valid. -/
def Obligations.ChecksumDetectsSmallChanges : Prop :=
  (∀ (a b : Byte) (ps : List Nat), ps.Pairwise (· < ·) → (∀ p ∈ ps, p < 24) → 1 ≤ ps.length → ps.length ≤ 3 →
    (changedGroup (validGroup a b) (changeAt ps)).ok = false) ∧
  (∀ (a b : Byte) (burst : Byte) (shift : Nat), burst ≠ 0 → shift ≤ 16 →
    (changedGroup (validGroup a b) (burst.setWidth 24 <<< shift)).ok = false) ∧
  ∀ a b : Byte, (((List.range 24).sublistsLen 4).filter fun ps =>
    (changedGroup (validGroup a b) (changeAt ps)).ok).length = 80

/-- R67: CRC8, its encoding, its effect, what it leaves, and its corner cases. -/
def Obligations.Crc8Command : Prop :=
  (∀ a b : Byte, (AsmCommand.crc8 a.toNat b.toNat).assemble =
    some (0x10000000 ||| a.setWidth 32 <<< 8 ||| b.setWidth 32)) ∧
  (∀ w : Command, w.extractLsb' 28 4 = 0x1 → decode w = .crc8 (w.extractLsb' 8 8) (w.extractLsb' 0 8)) ∧
  (∀ (a b : Byte) (s : State), ∃ t, RunsTo (.crc8 a b) s t [.status, .crcOut] ∧
    t.crcOut = crc8 a b ∧ t.status = ⟨.ok, true, 0, 0⟩ ∧ t.rvalid = s.rvalid) ∧
  crc8 0x00 0x00 = 0x81 ∧ crc8 0xFF 0xFF = 0xAC ∧ crc8 0x00 0x01 = 0xB0 ∧ crc8 0x01 0x00 = 0x75 ∧
  ∀ s : State, ∃ t, exec (decode 0x1000BEEF) s = .next t ∧ t.crcOut = 0x92 ∧
    (s.rvalid = false → t.statusWord = 0x00000010)

/-- R68: CHECK, its encoding, its effect and what it leaves. A mismatch is a result, not an error. -/
def Obligations.CheckCommand : Prop :=
  (∀ a b c : Byte, (AsmCommand.check a.toNat b.toNat c.toNat).assemble =
    some (0x20000000 ||| c.setWidth 32 <<< 16 ||| a.setWidth 32 <<< 8 ||| b.setWidth 32)) ∧
  (∀ w : Command, w.extractLsb' 28 4 = 0x2 →
    decode w = .check (w.extractLsb' 8 8) (w.extractLsb' 0 8) (w.extractLsb' 16 8)) ∧
  (∀ (a b c : Byte) (s : State), ∃ t, RunsTo (.check a b c) s t [.status, .crcOut] ∧
    t.crcOut = crc8 a b ∧ t.status = ⟨.ok, decide (crc8 a b = c), 0, 0⟩ ∧ t.rvalid = s.rvalid) ∧
  ∀ s : State, ∃ t u, exec (.check 0 0 0) s = .next t ∧ t.status.valid = false ∧
    exec (.check 0 0 0x81) s = .next u ∧ u.status.valid = true ∧
    exec (decode 0x2092BEEF) s = .next { s with crcOut := 0x92, status := ⟨.ok, true, 0, 0⟩ } ∧
    exec (decode 0x2093BEEF) s = .next { s with crcOut := 0x92, status := ⟨.ok, false, 0, 0⟩ }

/-- R69: CHECK and CRC8 agree. -/
def Obligations.CheckAgreesWithCrc8 : Prop :=
  ∀ (a b c : Byte) (s : State), ∃ t u, exec (.check a b c) s = .next t ∧ exec (.crc8 a b) s = .next u ∧
    (t.status.valid = true ↔ u.crcOut = c) ∧ t.crcOut = u.crcOut

/-! ## The word codec -/

/-- R70: WENC, its encoding, its effect and what it leaves. -/
def Obligations.WencCommand : Prop :=
  (∀ v : Word, (AsmCommand.wenc v.toNat).assemble = some (0x30000000 ||| v.setWidth 32)) ∧
  (∀ w : Command, w.extractLsb' 28 4 = 0x3 → decode w = .wenc (w.extractLsb' 0 16)) ∧
  (∀ (v : Word) (s : State), ∃ t, RunsTo (.wenc v) s t [.status, .crcOut, .encOut] ∧
    t.encOut.extractLsb' 16 8 = v.extractLsb' 8 8 ∧ t.encOut.extractLsb' 8 8 = v.extractLsb' 0 8 ∧
    t.encOut.extractLsb' 0 8 = crc8 (v.extractLsb' 8 8) (v.extractLsb' 0 8) ∧
    t.crcOut = crc8 (v.extractLsb' 8 8) (v.extractLsb' 0 8) ∧ t.status = ⟨.ok, true, 0, 0⟩ ∧ t.rvalid = s.rvalid) ∧
  ∀ s : State, ∃ t u v, exec (.wenc 0x0000) s = .next t ∧ t.encOut = 0x000081 ∧
    exec (.wenc 0xFFFF) s = .next u ∧ u.encOut = 0xFFFFAC ∧
    exec (decode 0x3000BEEF) s = .next v ∧ v.encOut = 0xBEEF92 ∧ v.crcOut = 0x92

/-- R71: WDEC, its encoding, both of its outcomes and what it leaves. (For WVAL[j] of a word with WOK[j] = 0 the
statement says what the rule says; no other statement uses it: spec/93 U1.) -/
def Obligations.WdecCommand : Prop :=
  AsmCommand.wdec.assemble = some 0x40000000 ∧ (∀ w : Command, w.extractLsb' 28 4 = 0x4 → decode w = .wdec) ∧
  (∀ s : State, s.flen.toNat % 3 ≠ 0 → ∃ t, RunsTo .wdec s t (.status :: wordRegs s.params) ∧
    t.status = ⟨.frameLength, false, 0, 0⟩ ∧ t.nw = 0 ∧ t.rvalid = s.rvalid ∧
    ∀ j < s.params.maxWords, t.wval.getD j 0 = 0 ∧ t.wok.getD j false = false) ∧
  ∀ s : State, s.flen.toNat % 3 = 0 → s.flen.toNat ≤ s.params.maxFrameBytes →
    ∃ t, RunsTo .wdec s t (.status :: wordRegs s.params) ∧
      t.nw.toNat = s.flen.toNat / 3 ∧ t.rvalid = s.rvalid ∧
      (∀ j < s.flen.toNat / 3, t.wval.getD j 0 = s.fb.read (3 * j) ++ s.fb.read (3 * j + 1) ∧
        t.wok.getD j false = decide (crc8 (s.fb.read (3 * j)) (s.fb.read (3 * j + 1)) = s.fb.read (3 * j + 2))) ∧
      (∀ j < s.params.maxWords, s.flen.toNat / 3 ≤ j → t.wval.getD j 0 = 0 ∧ t.wok.getD j false = false) ∧
      t.status.err = .ok ∧ t.status.errK = 0 ∧ t.status.errTag = 0 ∧
      (t.status.valid = true ↔ ∀ j < s.flen.toNat / 3, t.wok.getD j false = true)

/-- R72: the round trip. WENC, its three bytes written to FB, FLEN = 3, and WDEC give back one valid word, the value. -/
def Obligations.WencWdecRoundTrip : Prop :=
  ∀ (s : State) (v : Word), s.Inv → 3 ≤ s.params.maxFrameBytes →
    ∃ u t, exec (.wenc v) s = .next u ∧
      performAll u
        [.write 0x100 ((u.encOut.extractLsb' 16 8).setWidth 64), .write 0x101 ((u.encOut.extractLsb' 8 8).setWidth 64),
          .write 0x102 ((u.encOut.extractLsb' 0 8).setWidth 64), .write 0x009 3, .write 0x000 0x40000000] = .next t ∧
      t.nw = 1 ∧ t.wval.getD 0 0 = v ∧ t.wok.getD 0 false = true ∧ t.status.valid = true

/-- R73: WDEC and CHECK agree per word. -/
def Obligations.WdecAgreesWithCheck : Prop :=
  ∀ (s : State), s.flen.toNat ≤ s.params.maxFrameBytes → ∃ t, exec .wdec s = .next t ∧
    ∀ j < t.nw.toNat, ∃ u,
      exec (.check (s.fb.read (3 * j)) (s.fb.read (3 * j + 1)) (s.fb.read (3 * j + 2))) s = .next u ∧
      t.wok.getD j false = u.status.valid

/-! ## Fields -/

/-- R75: EXTRACT and READING make the frame check first, and look at no descriptor when it fails. -/
def Obligations.FrameCheckComesFirst : Prop :=
  ∀ s : State, s.flen.toNat % 3 ≠ 0 →
    (∀ k : Byte, ∃ t, RunsTo (.extract k) s t (.status :: singleRegs) ∧
      t.status = ⟨.frameLength, false, 0, 0⟩ ∧ t.single = Scalar.empty) ∧
    (∃ t, RunsTo .reading s t [.status, .rvalid] ∧ t.status = ⟨.frameLength, false, 0, 0⟩ ∧ t.rvalid = false) ∧
    ∀ (i : Instr) (n : Byte) (ds : List Desc), i = .reading ∨ (∃ k, i = .extract k) →
      exec i { s with nf := n, desc := ds } = mapNext (fun t => { t with nf := n, desc := ds }) (exec i s)

/-- R76: the structure check fails exactly under the six conditions, and then EXTRACT, and READING when every earlier
descriptor is legal, raise DescriptorError with ERRK = k and ERRTAG = DESC[k][23:16]. -/
def Obligations.StructureCheckOfADescriptor : Prop :=
  (∀ d : Desc, structureFails d = true ↔
    (d.extractLsb' 8 2 = 0 ∨ d.extractLsb' 8 2 = 3) ∨ d.extractLsb' 10 2 = 3 ∨
    (d.extractLsb' 10 2 = 0 ∧ d.extractLsb' 8 2 ≠ 2) ∨
    ((d.extractLsb' 10 2 = 1 ∨ d.extractLsb' 10 2 = 2) ∧ d.extractLsb' 8 2 ≠ 1) ∨
    (d.extractLsb' 10 2 = 2 ∧ d.extractLsb' 32 16 = 0) ∨ (d.extractLsb' 0 8).toNat % 3 ≠ 0) ∧
  ∀ (s : State) (k : Byte), s.flen.toNat % 3 = 0 → k.toNat < s.nf.toNat →
    structureFails (s.descAt k.toNat) = true →
    (∃ t, exec (.extract k) s = .next t ∧ t.status = ⟨.descriptor, false, k, (s.descAt k.toNat).extractLsb' 16 8⟩) ∧
    ((∀ j < k.toNat, FieldLegal s j) → ∃ t, exec .reading s = .next t ∧
      t.status = ⟨.descriptor, false, k, (s.descAt k.toNat).extractLsb' 16 8⟩)

/-- R77: the range check comes after the structure check and raises FieldRangeError; where it passes, every byte of the
field lies inside the frame, and so inside FB. -/
def Obligations.RangeCheckOfADescriptor : Prop :=
  (∀ (s : State) (k : Byte), s.flen.toNat % 3 = 0 → k.toNat < s.nf.toNat →
    structureFails (s.descAt k.toNat) = false →
    s.flen.toNat < ((s.descAt k.toNat).extractLsb' 0 8).toNat + 3 * ((s.descAt k.toNat).extractLsb' 8 2).toNat →
    (∃ t, exec (.extract k) s = .next t ∧ t.status = ⟨.fieldRange, false, k, (s.descAt k.toNat).extractLsb' 16 8⟩) ∧
    ((∀ j < k.toNat, FieldLegal s j) → ∃ t, exec .reading s = .next t ∧
      t.status = ⟨.fieldRange, false, k, (s.descAt k.toNat).extractLsb' 16 8⟩)) ∧
  ∀ (s : State) (k : Nat), s.flen.toNat ≤ s.params.maxFrameBytes → FieldLegal s k →
    readGroups s (descOff (s.descAt k)) (descWcnt (s.descAt k)) ≠ none ∧
    ∀ j < descWcnt (s.descAt k), ∀ b < 3, descOff (s.descAt k) + 3 * j + b < s.flen.toNat

/-- R78: on a field that passes the structure and range checks, an invalid word makes EXTRACT, and READING when the whole
table is legal and every earlier field valid, raise ChecksumError and name the field; no value is delivered. -/
def Obligations.ChecksumCheckOfADescriptor : Prop :=
  ∀ (s : State) (k : Byte), s.flen.toNat % 3 = 0 → s.flen.toNat ≤ s.params.maxFrameBytes → k.toNat < s.nf.toNat →
    FieldLegal s k.toNat → ¬ FieldValid s k.toNat →
    (∃ t, exec (.extract k) s = .next t ∧ t.single = Scalar.empty ∧
      t.status = ⟨.checksum, false, k, (s.descAt k.toNat).extractLsb' 16 8⟩) ∧
    (TableLegal s → (∀ j < k.toNat, FieldValid s j) → ∃ t, exec .reading s = .next t ∧ t.rvalid = false ∧
      t.status = ⟨.checksum, false, k, (s.descAt k.toNat).extractLsb' 16 8⟩)

/-- R79: `field_decode(k)`, written out on the bits of the descriptor and the bytes of the frame. -/
def Obligations.FieldDecodeFollowsItsPseudocode : Prop :=
  ∀ (s : State) (k : Nat), s.flen.toNat ≤ s.params.maxFrameBytes →
    let d := s.descAt k
    let off := (d.extractLsb' 0 8).toNat
    let wc := (d.extractLsb' 8 2).toNat
    let mode := (d.extractLsb' 10 2).toNat
    let tag := d.extractLsb' 16 8
    let v := fun j : Nat => s.fb.read (off + 3 * j) ++ s.fb.read (off + 3 * j + 1)
    fieldDecode s k =
      if wc = 0 ∨ wc = 3 ∨ mode = 3 ∨ (mode = 0 ∧ wc ≠ 2) ∨ ((mode = 1 ∨ mode = 2) ∧ wc ≠ 1) ∨
          (mode = 2 ∧ d.extractLsb' 32 16 = 0) ∨ off % 3 ≠ 0 then
        .fail ⟨.descriptor, BitVec.ofNat 8 k, tag⟩
      else if s.flen.toNat < off + 3 * wc then .fail ⟨.fieldRange, BitVec.ofNat 8 k, tag⟩
      else if ∃ j < wc, crc8 (s.fb.read (off + 3 * j)) (s.fb.read (off + 3 * j + 1)) ≠ s.fb.read (off + 3 * j + 2) then
        .fail ⟨.checksum, BitVec.ofNat 8 k, tag⟩
      else if mode = 0 then .ok ⟨.float32, v 0 ++ v 1, 0, 0, tag⟩
      else if mode = 1 then
        .ok ⟨.rational, 0, BitVec.ofInt 64 ((v 0).toNat * ((d.extractLsb' 32 16).signExtend 64).toInt +
          ((d.extractLsb' 48 16).signExtend 64).toInt * 65535), 65535, tag⟩
      else .ok ⟨.rational, 0, (v 0).setWidth 64, d.extractLsb' 32 16, tag⟩

/-- R80: EXTRACT, its encoding, its checks in their order, its outcomes and what it leaves. -/
def Obligations.ExtractCommand : Prop :=
  (∀ k : Byte, (AsmCommand.extract k.toNat).assemble = some (0x50000000 ||| k.setWidth 32)) ∧
  (∀ w : Command, w.extractLsb' 28 4 = 0x5 → decode w = .extract (w.extractLsb' 0 8)) ∧
  (∀ (s : State) (k : Byte), s.flen.toNat % 3 ≠ 0 → ∃ t, RunsTo (.extract k) s t (.status :: singleRegs) ∧
    t.single = ⟨.none, 0, 0, 0, 0⟩ ∧ t.status = ⟨.frameLength, false, 0, 0⟩ ∧ t.rvalid = s.rvalid) ∧
  (∀ (s : State) (k : Byte), s.flen.toNat % 3 = 0 → s.nf.toNat ≤ k.toNat →
    ∃ t, RunsTo (.extract k) s t (.status :: singleRegs) ∧
      t.single = ⟨.none, 0, 0, 0, 0⟩ ∧ t.status = ⟨.descriptor, false, k, 0⟩ ∧ t.rvalid = s.rvalid) ∧
  (∀ (s : State) (k : Byte) (f : Failure), s.flen.toNat % 3 = 0 → k.toNat < s.nf.toNat →
    fieldDecode s k.toNat = .fail f → ∃ t, RunsTo (.extract k) s t (.status :: singleRegs) ∧
      t.single = ⟨.none, 0, 0, 0, 0⟩ ∧ t.status = ⟨f.err, false, f.k, f.tag⟩ ∧ t.rvalid = s.rvalid) ∧
  ∀ (s : State) (k : Byte) (r : Scalar), s.flen.toNat % 3 = 0 → k.toNat < s.nf.toNat →
    fieldDecode s k.toNat = .ok r → ∃ t, RunsTo (.extract k) s t (.status :: singleRegs) ∧
      t.single = r ∧ t.status = ⟨.ok, true, 0, 0⟩ ∧ t.rvalid = s.rvalid

/-- R81: on a legal field EXTRACT succeeds exactly when WDEC of the same frame finds its words valid, and its value is
computed from WDEC's words. -/
def Obligations.ExtractAgreesWithWdec : Prop :=
  ∀ (s : State) (k : Byte), s.flen.toNat % 3 = 0 → s.flen.toNat ≤ s.params.maxFrameBytes → k.toNat < s.nf.toNat →
    FieldLegal s k.toNat → ∃ t u, exec .wdec s = .next t ∧ exec (.extract k) s = .next u ∧
      (u.status.err = .ok ↔ ∀ j < descWcnt (s.descAt k.toNat),
        t.wok.getD (descOff (s.descAt k.toNat) / 3 + j) false = true) ∧
      (u.status.err = .ok → u.single = decodeScalar (s.descAt k.toNat)
        ((List.range (descWcnt (s.descAt k.toNat))).map fun j =>
          t.wval.getD (descOff (s.descAt k.toNat) / 3 + j) 0))

/-- R82, R33: EXTRACT of a legal, valid FLOAT32 field delivers the four data bytes unchanged. -/
def Obligations.Float32DeliversTheBits : Prop :=
  ∀ (s : State) (k : Byte), s.flen.toNat % 3 = 0 → s.flen.toNat ≤ s.params.maxFrameBytes → k.toNat < s.nf.toNat →
    FieldLegal s k.toNat → FieldValid s k.toNat → (s.descAt k.toNat).extractLsb' 10 2 = 0 →
    ∃ t, RunsTo (.extract k) s t (.status :: singleRegs) ∧ t.status = ⟨.ok, true, 0, 0⟩ ∧
      t.single.kind = .float32 ∧ t.single.num = 0 ∧ t.single.den = 0 ∧
      t.single.tag = (s.descAt k.toNat).extractLsb' 16 8 ∧
      t.single.bits = s.fb.read (descOff (s.descAt k.toNat)) ++ s.fb.read (descOff (s.descAt k.toNat) + 1) ++
        s.fb.read (descOff (s.descAt k.toNat) + 3) ++ s.fb.read (descOff (s.descAt k.toNat) + 4)

/-- R85, R86: EXTRACT of a legal, valid FIXED field delivers `v * SCALE + OFFS * 65535` over 65535, exactly and within
the bound: nothing wraps. -/
def Obligations.FixedDeliversTheExactRational : Prop :=
  ∀ (s : State) (k : Byte), s.flen.toNat % 3 = 0 → s.flen.toNat ≤ s.params.maxFrameBytes → k.toNat < s.nf.toNat →
    FieldLegal s k.toNat → FieldValid s k.toNat → (s.descAt k.toNat).extractLsb' 10 2 = 1 →
    ∃ t, RunsTo (.extract k) s t (.status :: singleRegs) ∧ t.status = ⟨.ok, true, 0, 0⟩ ∧
      t.single.kind = .rational ∧ t.single.bits = 0 ∧ t.single.den.toNat = 65535 ∧
      t.single.tag = (s.descAt k.toNat).extractLsb' 16 8 ∧
      t.single.num.toInt = (fieldGroup s k.toNat 0).value.toNat * ((s.descAt k.toNat).extractLsb' 32 16).toInt +
        ((s.descAt k.toNat).extractLsb' 48 16).toInt * 65535 ∧
      t.single.num.toInt.natAbs ≤ 4294901760 ∧
      t.single.value = ((fieldGroup s k.toNat 0).value.toNat : Rat) / 65535 *
        (((s.descAt k.toNat).extractLsb' 32 16).toInt : Rat) + (((s.descAt k.toNat).extractLsb' 48 16).toInt : Rat)

/-- R87, R90: EXTRACT of a legal, valid IDIV field delivers the unsigned word over the divisor, which is not 0. -/
def Obligations.IdivDeliversTheExactQuotient : Prop :=
  ∀ (s : State) (k : Byte), s.flen.toNat % 3 = 0 → s.flen.toNat ≤ s.params.maxFrameBytes → k.toNat < s.nf.toNat →
    FieldLegal s k.toNat → FieldValid s k.toNat → (s.descAt k.toNat).extractLsb' 10 2 = 2 →
    ∃ t, RunsTo (.extract k) s t (.status :: singleRegs) ∧ t.status = ⟨.ok, true, 0, 0⟩ ∧
      t.single.kind = .rational ∧ t.single.bits = 0 ∧ t.single.tag = (s.descAt k.toNat).extractLsb' 16 8 ∧
      t.single.den = (s.descAt k.toNat).extractLsb' 32 16 ∧ t.single.den ≠ 0 ∧
      t.single.num.toInt = ((fieldGroup s k.toNat 0).value.toNat : Int) ∧
      t.single.value = ((fieldGroup s k.toNat 0).value.toNat : Rat) /
        (((s.descAt k.toNat).extractLsb' 32 16).toNat : Rat)

/-- R88: rational results are not reduced, and two of them stand for the same value exactly when the cross products agree,
which is how the model compares them. -/
def Obligations.RationalResultsCompareByCrossProducts : Prop :=
  (∀ (v : Word) (scale offs : Int) (tag : Byte), (fixed v scale offs tag).den.toNat = 65535) ∧
  (∀ (v : Word) (div : BitVec 16) (tag : Byte),
    (idiv v div tag).num.toInt = (v.toNat : Int) ∧ (idiv v div tag).den = div) ∧
  ∀ r q : Scalar, r.kind = .rational → q.kind = .rational → r.den ≠ 0 → q.den ≠ 0 →
    (r.value = q.value ↔ r.num.toInt * (q.den.toNat : Int) = q.num.toInt * (r.den.toNat : Int)) ∧
    (r.sameValue q = true ↔ r.value = q.value)

/-- R89: IDIV by D is FIXED with scale 65535/D and offset 0 as rationals; for 10, 100 and 200 that is no integer, and no
integer SCALE gives the same values. -/
def Obligations.IdivIsAFixedPointScaleOnlyAsARational : Prop :=
  (∀ (v : Word) (div : BitVec 16) (tag : Byte), div ≠ 0 →
    (idiv v div tag).value = (v.toNat : Rat) / (div.toNat : Rat) ∧
    (idiv v div tag).value = (v.toNat : Rat) / 65535 * (65535 / (div.toNat : Rat)) + 0) ∧
  (∀ div : BitVec 16, div ≠ 0 → ((∃ z : Int, (65535 : Rat) / (div.toNat : Rat) = z) ↔ div.toNat ∣ 65535)) ∧
  ∀ div ∈ [(10 : BitVec 16), 100, 200], ¬ div.toNat ∣ 65535 ∧
    ∀ (scale : BitVec 16) (tag : Byte), ∃ v : Word, (fixed v scale.toInt 0 tag).value ≠ (idiv v div tag).value

/-- R60: the reserved bits of a descriptor, and the bits its mode ignores, are kept as the host wrote them, read back
unchanged, and have no effect on any command. -/
def Obligations.UnusedDescriptorBitsHaveNoEffect : Prop :=
  (∀ (s : State) (k : Nat) (d : Desc), s.Inv → k < s.params.maxFields →
    ∃ t, perform s (.write (BitVec.ofNat 16 (0x300 + k)) d) = .next t ∧
      hostRead t (BitVec.ofNat 16 (0x300 + k)) = d) ∧
  ∀ (i : Instr) (s : State) (ds : List Desc), (∀ k, SameUsedBits (s.descAt k) (ds.getD k 0)) →
    exec i { s with desc := ds } = mapNext (fun t => { t with desc := ds }) (exec i s)

/-! ## The Reading -/

/-- R92: READING, its encoding; it commits when every check passes, and then every register of the Reading is as the rule
says; it is all or nothing. -/
def Obligations.ReadingCommand : Prop :=
  AsmCommand.reading.assemble = some 0x60000000 ∧ (∀ w : Command, w.extractLsb' 28 4 = 0x6 → decode w = .reading) ∧
  (∀ s : State, s.Inv → TableLegal s → (∀ k < s.nf.toNat, FieldValid s k) →
    ∃ t, RunsTo .reading s t (.status :: readingRegs s.params) ∧ t.status = ⟨.ok, true, 0, 0⟩ ∧
      t.rvalid = true ∧ t.rnf = s.nf ∧ (∀ k < s.nf.toNat, fieldDecode s k = .ok (t.rdAt k)) ∧
      ∀ k < s.params.maxFields, s.nf.toNat ≤ k → t.rdAt k = ⟨.none, 0, 0, 0, 0⟩) ∧
  (∀ s : State, s.Inv → ¬ (TableLegal s ∧ ∀ k < s.nf.toNat, FieldValid s k) →
    ∃ t, RunsTo .reading s t [.status, .rvalid] ∧ t.rvalid = false ∧ t.status.valid = false ∧ t.status.err ≠ .ok) ∧
  ∀ s : State, s.nf = 0 → s.flen.toNat % 3 = 0 → ∃ t, exec .reading s = .next t ∧
    (s.flen = 0 → t.rnf = 0 ∧ t.rvalid = true ∧ ∀ k, t.rdAt k = ⟨.none, 0, 0, 0, 0⟩) ∧
    (s.flen ≠ 0 → t.status = ⟨.descriptor, false, 0, 0⟩ ∧ t.rvalid = false)

/-- R93, R95: READING reports exactly the first failure in the order of the rule, and a failing READING writes RVALID = 0
and STATUS, and nothing else. -/
def Obligations.ReadingReportsTheFirstFailure : Prop :=
  ∀ s : State, s.flen.toNat ≤ s.params.maxFrameBytes →
    (s.flen.toNat % 3 ≠ 0 → ∃ t, RunsTo .reading s t [.status, .rvalid] ∧ t.rvalid = false ∧
      t.status = ⟨.frameLength, false, 0, 0⟩) ∧
    (∀ k : Byte, s.flen.toNat % 3 = 0 → k.toNat < s.nf.toNat → (∀ j < k.toNat, FieldLegal s j) →
      ¬ FieldLegal s k.toNat → ∃ t, RunsTo .reading s t [.status, .rvalid] ∧ t.rvalid = false ∧
        t.status = ⟨if structureFails (s.descAt k.toNat) then .descriptor else .fieldRange, false, k,
          descTag (s.descAt k.toNat)⟩) ∧
    (∀ k : Byte, s.flen.toNat % 3 = 0 → (∀ j < s.nf.toNat, FieldLegal s j) → k.toNat < s.nf.toNat →
      (∀ i < k.toNat, ∀ j < i, overlaps (s.descAt i) (s.descAt j) = false) →
      (∃ j < k.toNat, overlaps (s.descAt k.toNat) (s.descAt j) = true) →
      ∃ t, RunsTo .reading s t [.status, .rvalid] ∧ t.rvalid = false ∧
        t.status = ⟨.descriptor, false, k, descTag (s.descAt k.toNat)⟩) ∧
    (s.flen.toNat % 3 = 0 → (∀ j < s.nf.toNat, FieldLegal s j) →
      (∀ i < s.nf.toNat, ∀ j < i, overlaps (s.descAt i) (s.descAt j) = false) → s.totalSpan ≠ s.flen.toNat →
      ∃ t, RunsTo .reading s t [.status, .rvalid] ∧ t.rvalid = false ∧ t.status = ⟨.descriptor, false, s.nf, 0⟩) ∧
    ∀ k : Byte, TableLegal s → k.toNat < s.nf.toNat → (∀ j < k.toNat, FieldValid s j) → ¬ FieldValid s k.toNat →
      ∃ t, RunsTo .reading s t [.status, .rvalid] ∧ t.rvalid = false ∧
        t.status = ⟨.checksum, false, k, descTag (s.descAt k.toNat)⟩

/-- R94: on legal fields the overlap test finds exactly the spans with a common byte; when the layout check passes the
spans tile the frame, every byte of it in exactly one; EXTRACT makes no layout check, and looks at no other descriptor. -/
def Obligations.LegalLayoutTilesTheFrame : Prop :=
  (∀ (s : State) (k j : Nat), FieldLegal s k → FieldLegal s j →
    (overlaps (s.descAt k) (s.descAt j) = true ↔ ∃ a, descOff (s.descAt k) ≤ a ∧ a < descEnd (s.descAt k) ∧
      descOff (s.descAt j) ≤ a ∧ a < descEnd (s.descAt j))) ∧
  (∀ s : State, TableLegal s → ∀ a < s.flen.toNat, ∃! k, k < s.nf.toNat ∧ descOff (s.descAt k) ≤ a ∧
    a < descEnd (s.descAt k)) ∧
  (∀ s : State, TableLegal s → ∀ k < s.nf.toNat, descEnd (s.descAt k) ≤ s.flen.toNat ∧
    descOff (s.descAt k) % 3 = 0) ∧
  ∀ (s : State) (k : Byte) (ds : List Desc), ds.getD k.toNat 0 = s.descAt k.toNat →
    exec (.extract k) { s with desc := ds } = mapNext (fun t => { t with desc := ds }) (exec (.extract k) s)

/-- R96: no partial Reading; and a legal table whose one invalid group belongs to descriptor k gives the error of k. -/
def Obligations.NoPartialReading : Prop :=
  (∀ s : State, s.Inv → ∃ t, exec .reading s = .next t ∧
    ((t.rvalid = true ∧ t.status.err = .ok ∧ t.rnf = s.nf ∧
        ∀ k < t.rnf.toNat, fieldDecode s k = .ok (t.rdAt k) ∧ (t.rdAt k).kind ≠ .none) ∨
      (t.rvalid = false ∧ t.status.err ≠ .ok ∧ t.rnf = s.rnf ∧ t.rd = s.rd))) ∧
  ∀ (s : State) (k : Byte) (j : Nat), s.Inv → TableLegal s → k.toNat < s.nf.toNat →
    j < descWcnt (s.descAt k.toNat) → (fieldGroup s k.toNat j).ok = false →
    (∀ k' < s.nf.toNat, ∀ j' < descWcnt (s.descAt k'), (k', j') ≠ (k.toNat, j) → (fieldGroup s k' j').ok = true) →
    ∃ t, exec .reading s = .next t ∧ t.status = ⟨.checksum, false, k, descTag (s.descAt k.toNat)⟩ ∧ t.rvalid = false

/-- R97: a successful READING delivers for each field what `extract k` would leave in the single-result registers. -/
def Obligations.ReadingAgreesWithExtract : Prop :=
  ∀ s t : State, s.Inv → exec .reading s = .next t → t.rvalid = true → ∀ k : Byte, k.toNat < s.nf.toNat →
    ∃ u, exec (.extract k) s = .next u ∧ u.status.err = .ok ∧ t.rdAt k.toNat = u.single

/-! ## Errors, frames and the whole machine -/

/-- R103: an illegal command word records UnknownOperation(0, 0) and changes nothing else. -/
def Obligations.IllegalCommandWords : Prop :=
  (∀ i ∈ [Instr.illegal0, .illegal7, .illegal8, .illegal9, .illegalA, .illegalB, .illegalC, .illegalD, .illegalE,
      .illegalF], ∀ s : State, ∃ t, RunsTo i s t [.status] ∧ t = { s with status := t.status } ∧
    t.status = ⟨.unknownOperation, false, 0, 0⟩ ∧
    t.statusWord = if s.rvalid then 0x00000023 else 0x00000003) ∧
  ∀ w : Command, (w.extractLsb' 28 4).toNat = 0 ∨ 7 ≤ (w.extractLsb' 28 4).toNat → ∀ s : State,
    exec (decode w) s = .next { s with status := ⟨.unknownOperation, false, 0, 0⟩ }

/-- R101: which command records which error, under which condition, with which ERRK and ERRTAG. -/
def Obligations.ErrorsHaveTheirCauses : Prop :=
  ErrCode.ok.code = 0 ∧ ErrCode.frameLength.code = 1 ∧ ErrCode.checksum.code = 2 ∧ ErrCode.unknownOperation.code = 3 ∧
  ErrCode.descriptor.code = 4 ∧ ErrCode.fieldRange.code = 5 ∧ (∀ e : ErrCode, e.code.toNat ≤ 5) ∧
  ∀ (i : Instr) (s t : State), exec i s = .next t →
    (t.status.err = .ok → t.status.errK = 0 ∧ t.status.errTag = 0) ∧
    (t.status.err = .frameLength → (i = .wdec ∨ i = .reading ∨ ∃ k, i = .extract k) ∧ s.flen.toNat % 3 ≠ 0 ∧
      t.status.errK = 0 ∧ t.status.errTag = 0) ∧
    (t.status.err = .checksum → (i = .reading ∨ i = .extract t.status.errK) ∧
      t.status.errK.toNat < s.nf.toNat ∧ ¬ FieldValid s t.status.errK.toNat ∧
      t.status.errTag = descTag (s.descAt t.status.errK.toNat)) ∧
    (t.status.err = .unknownOperation → i.mnemonic = "ILLEGAL" ∧ t.status.errK = 0 ∧ t.status.errTag = 0) ∧
    (t.status.err = .descriptor →
      (i = .extract t.status.errK ∧ s.nf.toNat ≤ t.status.errK.toNat ∧ t.status.errTag = 0) ∨
      (i = .reading ∧ t.status.errK = s.nf ∧ s.totalSpan ≠ s.flen.toNat ∧ t.status.errTag = 0) ∨
      ((i = .reading ∨ i = .extract t.status.errK) ∧ t.status.errK.toNat < s.nf.toNat ∧
        t.status.errTag = descTag (s.descAt t.status.errK.toNat) ∧
        (structureFails (s.descAt t.status.errK.toNat) = true ∨
          i = .reading ∧ ∃ j < t.status.errK.toNat,
            overlaps (s.descAt t.status.errK.toNat) (s.descAt j) = true))) ∧
    (t.status.err = .fieldRange → (i = .reading ∨ i = .extract t.status.errK) ∧
      t.status.errK.toNat < s.nf.toNat ∧ s.flen.toNat < descEnd (s.descAt t.status.errK.toNat) ∧
      t.status.errTag = descTag (s.descAt t.status.errK.toNat))

/-- R99: errors are precise. A failing command writes STATUS and exactly the further registers of its failure path. -/
def Obligations.FailingCommandsArePrecise : Prop :=
  ∀ (i : Instr) (s t : State), exec i s = .next t → t.status.err ≠ .ok →
    t = { failureWrites i s with status := t.status }

/-- R20 to R27, D33: whatever its outcome, a command writes only the registers its rule gives it, and no byte of the frame
buffer; the parameters and the host's side stay. -/
def Obligations.CommandsWriteOnlyTheirFootprint : Prop :=
  ∀ (i : Instr) (s t : State), exec i s = .next t →
    SameExcept (footprint s.params i) s t ∧ ∀ a, t.fb.read a = s.fb.read a

/-- R102: every command ends in exactly one of `finish_ok(valid)` and `raise E(k, tag)`; RVALID shows in bit 5 of STATUS,
and bits [7:6] and [31:24] read 0. -/
def Obligations.EveryCommandEndsInOneStatusWrite : Prop :=
  ∀ (i : Instr) (s t : State), exec i s = .next t →
    Xor (∃ valid, t.status = ⟨.ok, valid, 0, 0⟩)
      (∃ e k tag, e ≠ ErrCode.ok ∧ t.status = ⟨e, false, k, tag⟩) ∧
    t.statusWord.getLsbD 5 = t.rvalid ∧ t.statusWord.extractLsb' 6 2 = 0 ∧ t.statusWord.extractLsb' 24 8 = 0

/-- R100: errors are not latched. What a command does, STATUS included, does not depend on what the last one reported, and
no error stops the block from taking commands. -/
def Obligations.ErrorsAreNotLatched : Prop :=
  (∀ (i : Instr) (s : State) (st : Status), exec i { s with status := st } = exec i s) ∧
  ∀ (i : Instr) (s : State) (st : Status), s.Inv → ∃ t, exec i { s with status := st } = .next t

/-- R28: the two flags. Every command writes STATUS.VALID; RVALID is written only by READING; no host access but a
command writes either. -/
def Obligations.FlagsAreWrittenOnlyByCommands : Prop :=
  (∀ (i : Instr) (s t : State), exec i s = .next t → i ≠ .reading → t.rvalid = s.rvalid) ∧
  (∀ (s t : State) (index : RegIndex) (v : HostWord), index ≠ Reg.cmd.port → perform s (.write index v) = .next t →
    t.rvalid = s.rvalid ∧ t.status = s.status) ∧
  (∀ (s t : State) (index : RegIndex), perform s (.read index) = .next t →
    t.rvalid = s.rvalid ∧ t.status = s.status) ∧
  ∀ (i : Instr) (s t : State) (b : Bool), exec i s = .next t →
    ∃ u, exec i { s with status := { s.status with valid := b } } = .next u ∧ u.status.valid = t.status.valid

/-- R26: no command writes FB, and none reads a byte at or above FLEN: two states that differ only there give the same
outcome. -/
def Obligations.BytesAboveFlenAreNeverRead : Prop :=
  (∀ (i : Instr) (s t : State), exec i s = .next t → t.fb = s.fb) ∧
  ∀ (i : Instr) (s : State) (m : Memory), (∀ a < s.flen.toNat, m.read a = s.fb.read a) →
    exec i { s with fb := m } = mapNext (fun t => { t with fb := m }) (exec i s)

/-- The state invariant (R7, R19, R22 to R27) holds after reset, for all legal parameters. -/
def Obligations.ResetMeetsTheInvariant : Prop :=
  (∀ p : Params, p.legal → (State.resetWith p).Inv) ∧ State.reset.Inv

/-- Every step keeps the state invariant: the memory stays canonical and inside FB, FLEN, NF, NW and RNF stay in range, no
word above NW and no field above RNF holds a value, every scalar has a legal shape, and STATUS is as a command left it. -/
def Obligations.StepKeepsTheInvariant : Prop :=
  ∀ s t : State, s.Inv → step s = .next t → t.Inv

/-- R77, R98, R100: from a state that meets the invariant no step faults or refuses, whatever the host does. -/
def Obligations.StepNeverStops : Prop :=
  ∀ s : State, s.Inv → ∃ t, step s = .next t
end

