-- ==== Sys2Proof/Laws/Crc.lean ====
section
/-! SUPPORT. The running register of the checksum is linear over exclusive or, and a round can be undone. -/

namespace Sys2Proof.Machine

/-- A round as one expression: the shifted register, and the polynomial where the top bit was 1. -/
theorem crcRound_eq (r : Byte) : crcRound r = (r <<< 1) ^^^ (if r.getLsbD 7 then Config.crcPoly else 0) := by
  unfold crcRound
  split <;> simp

/-- One round is linear. -/
theorem crcRound_xor (r q : Byte) : crcRound (r ^^^ q) = crcRound r ^^^ crcRound q := by
  simp only [crcRound_eq, BitVec.getLsbD_xor, BitVec.shiftLeft_xor_distrib]
  have cancel : ∀ x y p : Byte, (x ^^^ p) ^^^ (y ^^^ p) = x ^^^ y := fun x y p => by
    rw [show (x ^^^ p) ^^^ (y ^^^ p) = (x ^^^ y) ^^^ (p ^^^ p) by ac_rfl, BitVec.xor_self, BitVec.xor_zero]
  cases r.getLsbD 7 <;> cases q.getLsbD 7 <;> simp [cancel] <;> ac_rfl

theorem crcRounds_xor (n : Nat) (r q : Byte) : crcRounds n (r ^^^ q) = crcRounds n r ^^^ crcRounds n q := by
  induction n generalizing r q with
  | zero => rfl
  | succ n ih => simp only [crcRounds, crcRound_xor, ih]

/-- A byte through the register is linear in the register and the byte together. -/
theorem crcByte_xor (r q a b : Byte) : crcByte (r ^^^ q) (a ^^^ b) = crcByte r a ^^^ crcByte q b := by
  unfold crcByte
  rw [← crcRounds_xor]
  congr 1
  ac_rfl

@[simp] theorem crcRounds_zero (n : Nat) : crcRounds n 0 = 0 := by
  induction n with
  | zero => rfl
  | succ n ih => exact ih

/-- Equal bytes cancel in the register. -/
@[simp] theorem crcByte_self (r : Byte) : crcByte r r = 0 := by
  rw [crcByte, BitVec.xor_self]
  exact crcRounds_zero 8

/-- The checksum, its two bytes one after the other. -/
theorem crc8_eq (a b : Byte) : crc8 a b = crcByte (crcByte Config.crcInit a) b := rfl

theorem Group.ok_iff (g : Group) : g.ok = true ↔ crc8 g.hi g.lo = g.ck := by simp [Group.ok]

end Sys2Proof.Machine
end

