-- ==== Sys2Proof/Laws/Decode.lean ====
section
/-! SUPPORT. The formats of spec R51, field by field: what each field of a format's word holds. -/

namespace Sys2Proof

@[simp] theorem opField_formatP (op : BitVec 4) (c a b : Byte) : opField (formatP op c a b) = op := by
  unfold opField formatP
  rw [BitVec.extractLsb'_append_eq_of_le (by omega), BitVec.extractLsb'_append_eq_of_le (by omega),
    BitVec.extractLsb'_append_eq_of_le (by omega), BitVec.extractLsb'_append_eq_of_le (by omega)]
  exact BitVec.extractLsb'_eq_self

@[simp] theorem cField_formatP (op : BitVec 4) (c a b : Byte) : cField (formatP op c a b) = c := by
  unfold cField formatP
  rw [BitVec.extractLsb'_append_eq_of_le (by omega), BitVec.extractLsb'_append_eq_of_le (by omega),
    BitVec.extractLsb'_append_eq_of_add_le (by omega)]
  exact BitVec.extractLsb'_eq_self

@[simp] theorem aField_formatP (op : BitVec 4) (c a b : Byte) : aField (formatP op c a b) = a := by
  unfold aField formatP
  rw [BitVec.extractLsb'_append_eq_of_le (by omega), BitVec.extractLsb'_append_eq_of_add_le (by omega)]
  exact BitVec.extractLsb'_eq_self

@[simp] theorem bField_formatP (op : BitVec 4) (c a b : Byte) : bField (formatP op c a b) = b := by
  unfold bField formatP
  rw [BitVec.extractLsb'_append_eq_of_add_le (by omega)]
  exact BitVec.extractLsb'_eq_self

@[simp] theorem opField_formatV (op : BitVec 4) (v : Word) : opField (formatV op v) = op := by
  unfold opField formatV
  rw [BitVec.extractLsb'_append_eq_of_le (by omega), BitVec.extractLsb'_append_eq_of_le (by omega)]
  exact BitVec.extractLsb'_eq_self

@[simp] theorem vField_formatV (op : BitVec 4) (v : Word) : vField (formatV op v) = v := by
  unfold vField formatV
  rw [BitVec.extractLsb'_append_eq_of_add_le (by omega)]
  exact BitVec.extractLsb'_eq_self

@[simp] theorem opField_formatK (op : BitVec 4) (k : Byte) : opField (formatK op k) = op := by
  unfold opField formatK
  rw [BitVec.extractLsb'_append_eq_of_le (by omega), BitVec.extractLsb'_append_eq_of_le (by omega)]
  exact BitVec.extractLsb'_eq_self

@[simp] theorem kField_formatK (op : BitVec 4) (k : Byte) : kField (formatK op k) = k := by
  unfold kField formatK
  rw [BitVec.extractLsb'_append_eq_of_add_le (by omega)]
  exact BitVec.extractLsb'_eq_self

@[simp] theorem opField_formatN (op : BitVec 4) : opField (formatN op) = op := by
  unfold opField formatN
  rw [BitVec.extractLsb'_append_eq_of_le (by omega)]
  exact BitVec.extractLsb'_eq_self

end Sys2Proof
end

