-- ==== Sys2Proof/Laws/State.lean ====
section
/-! SUPPORT. One lemma per field of State for each update of Ops.lean: what the field holds after it. -/

namespace Sys2Proof.Machine

variable (s : State)

/-! `finishOk` -/

@[simp] theorem State.finishOk_params (v : Bool) : (s.finishOk v).params = s.params := rfl
@[simp] theorem State.finishOk_status (v : Bool) : (s.finishOk v).status = ⟨.ok, v, 0, 0⟩ := rfl
@[simp] theorem State.finishOk_crcOut (v : Bool) : (s.finishOk v).crcOut = s.crcOut := rfl
@[simp] theorem State.finishOk_encOut (v : Bool) : (s.finishOk v).encOut = s.encOut := rfl
@[simp] theorem State.finishOk_single (v : Bool) : (s.finishOk v).single = s.single := rfl
@[simp] theorem State.finishOk_flen (v : Bool) : (s.finishOk v).flen = s.flen := rfl
@[simp] theorem State.finishOk_nw (v : Bool) : (s.finishOk v).nw = s.nw := rfl
@[simp] theorem State.finishOk_nf (v : Bool) : (s.finishOk v).nf = s.nf := rfl
@[simp] theorem State.finishOk_rvalid (v : Bool) : (s.finishOk v).rvalid = s.rvalid := rfl
@[simp] theorem State.finishOk_rnf (v : Bool) : (s.finishOk v).rnf = s.rnf := rfl
@[simp] theorem State.finishOk_fb (v : Bool) : (s.finishOk v).fb = s.fb := rfl
@[simp] theorem State.finishOk_wval (v : Bool) : (s.finishOk v).wval = s.wval := rfl
@[simp] theorem State.finishOk_wok (v : Bool) : (s.finishOk v).wok = s.wok := rfl
@[simp] theorem State.finishOk_desc (v : Bool) : (s.finishOk v).desc = s.desc := rfl
@[simp] theorem State.finishOk_rd (v : Bool) : (s.finishOk v).rd = s.rd := rfl
@[simp] theorem State.finishOk_inbox (v : Bool) : (s.finishOk v).inbox = s.inbox := rfl
@[simp] theorem State.finishOk_readData (v : Bool) : (s.finishOk v).readData = s.readData := rfl

/-! `raise` -/

@[simp] theorem State.raise_params (f : Failure) : (s.raise f).params = s.params := rfl
@[simp] theorem State.raise_status (f : Failure) : (s.raise f).status = ⟨f.err, false, f.k, f.tag⟩ := rfl
@[simp] theorem State.raise_crcOut (f : Failure) : (s.raise f).crcOut = s.crcOut := rfl
@[simp] theorem State.raise_encOut (f : Failure) : (s.raise f).encOut = s.encOut := rfl
@[simp] theorem State.raise_single (f : Failure) : (s.raise f).single = s.single := rfl
@[simp] theorem State.raise_flen (f : Failure) : (s.raise f).flen = s.flen := rfl
@[simp] theorem State.raise_nw (f : Failure) : (s.raise f).nw = s.nw := rfl
@[simp] theorem State.raise_nf (f : Failure) : (s.raise f).nf = s.nf := rfl
@[simp] theorem State.raise_rvalid (f : Failure) : (s.raise f).rvalid = s.rvalid := rfl
@[simp] theorem State.raise_rnf (f : Failure) : (s.raise f).rnf = s.rnf := rfl
@[simp] theorem State.raise_fb (f : Failure) : (s.raise f).fb = s.fb := rfl
@[simp] theorem State.raise_wval (f : Failure) : (s.raise f).wval = s.wval := rfl
@[simp] theorem State.raise_wok (f : Failure) : (s.raise f).wok = s.wok := rfl
@[simp] theorem State.raise_desc (f : Failure) : (s.raise f).desc = s.desc := rfl
@[simp] theorem State.raise_rd (f : Failure) : (s.raise f).rd = s.rd := rfl
@[simp] theorem State.raise_inbox (f : Failure) : (s.raise f).inbox = s.inbox := rfl
@[simp] theorem State.raise_readData (f : Failure) : (s.raise f).readData = s.readData := rfl

/-! `setCrcOut` -/

@[simp] theorem State.setCrcOut_params (c : Byte) : (s.setCrcOut c).params = s.params := rfl
@[simp] theorem State.setCrcOut_status (c : Byte) : (s.setCrcOut c).status = s.status := rfl
@[simp] theorem State.setCrcOut_crcOut (c : Byte) : (s.setCrcOut c).crcOut = c := rfl
@[simp] theorem State.setCrcOut_encOut (c : Byte) : (s.setCrcOut c).encOut = s.encOut := rfl
@[simp] theorem State.setCrcOut_single (c : Byte) : (s.setCrcOut c).single = s.single := rfl
@[simp] theorem State.setCrcOut_flen (c : Byte) : (s.setCrcOut c).flen = s.flen := rfl
@[simp] theorem State.setCrcOut_nw (c : Byte) : (s.setCrcOut c).nw = s.nw := rfl
@[simp] theorem State.setCrcOut_nf (c : Byte) : (s.setCrcOut c).nf = s.nf := rfl
@[simp] theorem State.setCrcOut_rvalid (c : Byte) : (s.setCrcOut c).rvalid = s.rvalid := rfl
@[simp] theorem State.setCrcOut_rnf (c : Byte) : (s.setCrcOut c).rnf = s.rnf := rfl
@[simp] theorem State.setCrcOut_fb (c : Byte) : (s.setCrcOut c).fb = s.fb := rfl
@[simp] theorem State.setCrcOut_wval (c : Byte) : (s.setCrcOut c).wval = s.wval := rfl
@[simp] theorem State.setCrcOut_wok (c : Byte) : (s.setCrcOut c).wok = s.wok := rfl
@[simp] theorem State.setCrcOut_desc (c : Byte) : (s.setCrcOut c).desc = s.desc := rfl
@[simp] theorem State.setCrcOut_rd (c : Byte) : (s.setCrcOut c).rd = s.rd := rfl
@[simp] theorem State.setCrcOut_inbox (c : Byte) : (s.setCrcOut c).inbox = s.inbox := rfl
@[simp] theorem State.setCrcOut_readData (c : Byte) : (s.setCrcOut c).readData = s.readData := rfl

/-! `setEncOut` -/

@[simp] theorem State.setEncOut_params (e : BitVec 24) : (s.setEncOut e).params = s.params := rfl
@[simp] theorem State.setEncOut_status (e : BitVec 24) : (s.setEncOut e).status = s.status := rfl
@[simp] theorem State.setEncOut_crcOut (e : BitVec 24) : (s.setEncOut e).crcOut = s.crcOut := rfl
@[simp] theorem State.setEncOut_encOut (e : BitVec 24) : (s.setEncOut e).encOut = e := rfl
@[simp] theorem State.setEncOut_single (e : BitVec 24) : (s.setEncOut e).single = s.single := rfl
@[simp] theorem State.setEncOut_flen (e : BitVec 24) : (s.setEncOut e).flen = s.flen := rfl
@[simp] theorem State.setEncOut_nw (e : BitVec 24) : (s.setEncOut e).nw = s.nw := rfl
@[simp] theorem State.setEncOut_nf (e : BitVec 24) : (s.setEncOut e).nf = s.nf := rfl
@[simp] theorem State.setEncOut_rvalid (e : BitVec 24) : (s.setEncOut e).rvalid = s.rvalid := rfl
@[simp] theorem State.setEncOut_rnf (e : BitVec 24) : (s.setEncOut e).rnf = s.rnf := rfl
@[simp] theorem State.setEncOut_fb (e : BitVec 24) : (s.setEncOut e).fb = s.fb := rfl
@[simp] theorem State.setEncOut_wval (e : BitVec 24) : (s.setEncOut e).wval = s.wval := rfl
@[simp] theorem State.setEncOut_wok (e : BitVec 24) : (s.setEncOut e).wok = s.wok := rfl
@[simp] theorem State.setEncOut_desc (e : BitVec 24) : (s.setEncOut e).desc = s.desc := rfl
@[simp] theorem State.setEncOut_rd (e : BitVec 24) : (s.setEncOut e).rd = s.rd := rfl
@[simp] theorem State.setEncOut_inbox (e : BitVec 24) : (s.setEncOut e).inbox = s.inbox := rfl
@[simp] theorem State.setEncOut_readData (e : BitVec 24) : (s.setEncOut e).readData = s.readData := rfl

/-! `setSingle` -/

@[simp] theorem State.setSingle_params (r : Scalar) : (s.setSingle r).params = s.params := rfl
@[simp] theorem State.setSingle_status (r : Scalar) : (s.setSingle r).status = s.status := rfl
@[simp] theorem State.setSingle_crcOut (r : Scalar) : (s.setSingle r).crcOut = s.crcOut := rfl
@[simp] theorem State.setSingle_encOut (r : Scalar) : (s.setSingle r).encOut = s.encOut := rfl
@[simp] theorem State.setSingle_single (r : Scalar) : (s.setSingle r).single = r := rfl
@[simp] theorem State.setSingle_flen (r : Scalar) : (s.setSingle r).flen = s.flen := rfl
@[simp] theorem State.setSingle_nw (r : Scalar) : (s.setSingle r).nw = s.nw := rfl
@[simp] theorem State.setSingle_nf (r : Scalar) : (s.setSingle r).nf = s.nf := rfl
@[simp] theorem State.setSingle_rvalid (r : Scalar) : (s.setSingle r).rvalid = s.rvalid := rfl
@[simp] theorem State.setSingle_rnf (r : Scalar) : (s.setSingle r).rnf = s.rnf := rfl
@[simp] theorem State.setSingle_fb (r : Scalar) : (s.setSingle r).fb = s.fb := rfl
@[simp] theorem State.setSingle_wval (r : Scalar) : (s.setSingle r).wval = s.wval := rfl
@[simp] theorem State.setSingle_wok (r : Scalar) : (s.setSingle r).wok = s.wok := rfl
@[simp] theorem State.setSingle_desc (r : Scalar) : (s.setSingle r).desc = s.desc := rfl
@[simp] theorem State.setSingle_rd (r : Scalar) : (s.setSingle r).rd = s.rd := rfl
@[simp] theorem State.setSingle_inbox (r : Scalar) : (s.setSingle r).inbox = s.inbox := rfl
@[simp] theorem State.setSingle_readData (r : Scalar) : (s.setSingle r).readData = s.readData := rfl

/-! `clearSingle` -/

@[simp] theorem State.clearSingle_params : s.clearSingle.params = s.params := rfl
@[simp] theorem State.clearSingle_status : s.clearSingle.status = s.status := rfl
@[simp] theorem State.clearSingle_crcOut : s.clearSingle.crcOut = s.crcOut := rfl
@[simp] theorem State.clearSingle_encOut : s.clearSingle.encOut = s.encOut := rfl
@[simp] theorem State.clearSingle_single : s.clearSingle.single = Scalar.empty := rfl
@[simp] theorem State.clearSingle_flen : s.clearSingle.flen = s.flen := rfl
@[simp] theorem State.clearSingle_nw : s.clearSingle.nw = s.nw := rfl
@[simp] theorem State.clearSingle_nf : s.clearSingle.nf = s.nf := rfl
@[simp] theorem State.clearSingle_rvalid : s.clearSingle.rvalid = s.rvalid := rfl
@[simp] theorem State.clearSingle_rnf : s.clearSingle.rnf = s.rnf := rfl
@[simp] theorem State.clearSingle_fb : s.clearSingle.fb = s.fb := rfl
@[simp] theorem State.clearSingle_wval : s.clearSingle.wval = s.wval := rfl
@[simp] theorem State.clearSingle_wok : s.clearSingle.wok = s.wok := rfl
@[simp] theorem State.clearSingle_desc : s.clearSingle.desc = s.desc := rfl
@[simp] theorem State.clearSingle_rd : s.clearSingle.rd = s.rd := rfl
@[simp] theorem State.clearSingle_inbox : s.clearSingle.inbox = s.inbox := rfl
@[simp] theorem State.clearSingle_readData : s.clearSingle.readData = s.readData := rfl

/-! `setWords` -/

@[simp] theorem State.setWords_params (n : Byte) (vs : List Word) (os : List Bool) : (s.setWords n vs os).params = s.params := rfl
@[simp] theorem State.setWords_status (n : Byte) (vs : List Word) (os : List Bool) : (s.setWords n vs os).status = s.status := rfl
@[simp] theorem State.setWords_crcOut (n : Byte) (vs : List Word) (os : List Bool) : (s.setWords n vs os).crcOut = s.crcOut := rfl
@[simp] theorem State.setWords_encOut (n : Byte) (vs : List Word) (os : List Bool) : (s.setWords n vs os).encOut = s.encOut := rfl
@[simp] theorem State.setWords_single (n : Byte) (vs : List Word) (os : List Bool) : (s.setWords n vs os).single = s.single := rfl
@[simp] theorem State.setWords_flen (n : Byte) (vs : List Word) (os : List Bool) : (s.setWords n vs os).flen = s.flen := rfl
@[simp] theorem State.setWords_nw (n : Byte) (vs : List Word) (os : List Bool) : (s.setWords n vs os).nw = n := rfl
@[simp] theorem State.setWords_nf (n : Byte) (vs : List Word) (os : List Bool) : (s.setWords n vs os).nf = s.nf := rfl
@[simp] theorem State.setWords_rvalid (n : Byte) (vs : List Word) (os : List Bool) : (s.setWords n vs os).rvalid = s.rvalid := rfl
@[simp] theorem State.setWords_rnf (n : Byte) (vs : List Word) (os : List Bool) : (s.setWords n vs os).rnf = s.rnf := rfl
@[simp] theorem State.setWords_fb (n : Byte) (vs : List Word) (os : List Bool) : (s.setWords n vs os).fb = s.fb := rfl
@[simp] theorem State.setWords_wval (n : Byte) (vs : List Word) (os : List Bool) : (s.setWords n vs os).wval = vs := rfl
@[simp] theorem State.setWords_wok (n : Byte) (vs : List Word) (os : List Bool) : (s.setWords n vs os).wok = os := rfl
@[simp] theorem State.setWords_desc (n : Byte) (vs : List Word) (os : List Bool) : (s.setWords n vs os).desc = s.desc := rfl
@[simp] theorem State.setWords_rd (n : Byte) (vs : List Word) (os : List Bool) : (s.setWords n vs os).rd = s.rd := rfl
@[simp] theorem State.setWords_inbox (n : Byte) (vs : List Word) (os : List Bool) : (s.setWords n vs os).inbox = s.inbox := rfl
@[simp] theorem State.setWords_readData (n : Byte) (vs : List Word) (os : List Bool) : (s.setWords n vs os).readData = s.readData := rfl

/-! `clearWords` -/

@[simp] theorem State.clearWords_params : s.clearWords.params = s.params := rfl
@[simp] theorem State.clearWords_status : s.clearWords.status = s.status := rfl
@[simp] theorem State.clearWords_crcOut : s.clearWords.crcOut = s.crcOut := rfl
@[simp] theorem State.clearWords_encOut : s.clearWords.encOut = s.encOut := rfl
@[simp] theorem State.clearWords_single : s.clearWords.single = s.single := rfl
@[simp] theorem State.clearWords_flen : s.clearWords.flen = s.flen := rfl
@[simp] theorem State.clearWords_nw : s.clearWords.nw = 0 := rfl
@[simp] theorem State.clearWords_nf : s.clearWords.nf = s.nf := rfl
@[simp] theorem State.clearWords_rvalid : s.clearWords.rvalid = s.rvalid := rfl
@[simp] theorem State.clearWords_rnf : s.clearWords.rnf = s.rnf := rfl
@[simp] theorem State.clearWords_fb : s.clearWords.fb = s.fb := rfl
@[simp] theorem State.clearWords_wval : s.clearWords.wval = List.replicate s.params.maxWords 0 := rfl
@[simp] theorem State.clearWords_wok : s.clearWords.wok = List.replicate s.params.maxWords false := rfl
@[simp] theorem State.clearWords_desc : s.clearWords.desc = s.desc := rfl
@[simp] theorem State.clearWords_rd : s.clearWords.rd = s.rd := rfl
@[simp] theorem State.clearWords_inbox : s.clearWords.inbox = s.inbox := rfl
@[simp] theorem State.clearWords_readData : s.clearWords.readData = s.readData := rfl

/-! `dropReading` -/

@[simp] theorem State.dropReading_params : s.dropReading.params = s.params := rfl
@[simp] theorem State.dropReading_status : s.dropReading.status = s.status := rfl
@[simp] theorem State.dropReading_crcOut : s.dropReading.crcOut = s.crcOut := rfl
@[simp] theorem State.dropReading_encOut : s.dropReading.encOut = s.encOut := rfl
@[simp] theorem State.dropReading_single : s.dropReading.single = s.single := rfl
@[simp] theorem State.dropReading_flen : s.dropReading.flen = s.flen := rfl
@[simp] theorem State.dropReading_nw : s.dropReading.nw = s.nw := rfl
@[simp] theorem State.dropReading_nf : s.dropReading.nf = s.nf := rfl
@[simp] theorem State.dropReading_rvalid : s.dropReading.rvalid = false := rfl
@[simp] theorem State.dropReading_rnf : s.dropReading.rnf = s.rnf := rfl
@[simp] theorem State.dropReading_fb : s.dropReading.fb = s.fb := rfl
@[simp] theorem State.dropReading_wval : s.dropReading.wval = s.wval := rfl
@[simp] theorem State.dropReading_wok : s.dropReading.wok = s.wok := rfl
@[simp] theorem State.dropReading_desc : s.dropReading.desc = s.desc := rfl
@[simp] theorem State.dropReading_rd : s.dropReading.rd = s.rd := rfl
@[simp] theorem State.dropReading_inbox : s.dropReading.inbox = s.inbox := rfl
@[simp] theorem State.dropReading_readData : s.dropReading.readData = s.readData := rfl

/-! `commitReading` -/

@[simp] theorem State.commitReading_params (n : Byte) (rs : List Scalar) : (s.commitReading n rs).params = s.params := rfl
@[simp] theorem State.commitReading_status (n : Byte) (rs : List Scalar) : (s.commitReading n rs).status = s.status := rfl
@[simp] theorem State.commitReading_crcOut (n : Byte) (rs : List Scalar) : (s.commitReading n rs).crcOut = s.crcOut := rfl
@[simp] theorem State.commitReading_encOut (n : Byte) (rs : List Scalar) : (s.commitReading n rs).encOut = s.encOut := rfl
@[simp] theorem State.commitReading_single (n : Byte) (rs : List Scalar) : (s.commitReading n rs).single = s.single := rfl
@[simp] theorem State.commitReading_flen (n : Byte) (rs : List Scalar) : (s.commitReading n rs).flen = s.flen := rfl
@[simp] theorem State.commitReading_nw (n : Byte) (rs : List Scalar) : (s.commitReading n rs).nw = s.nw := rfl
@[simp] theorem State.commitReading_nf (n : Byte) (rs : List Scalar) : (s.commitReading n rs).nf = s.nf := rfl
@[simp] theorem State.commitReading_rvalid (n : Byte) (rs : List Scalar) : (s.commitReading n rs).rvalid = true := rfl
@[simp] theorem State.commitReading_rnf (n : Byte) (rs : List Scalar) : (s.commitReading n rs).rnf = n := rfl
@[simp] theorem State.commitReading_fb (n : Byte) (rs : List Scalar) : (s.commitReading n rs).fb = s.fb := rfl
@[simp] theorem State.commitReading_wval (n : Byte) (rs : List Scalar) : (s.commitReading n rs).wval = s.wval := rfl
@[simp] theorem State.commitReading_wok (n : Byte) (rs : List Scalar) : (s.commitReading n rs).wok = s.wok := rfl
@[simp] theorem State.commitReading_desc (n : Byte) (rs : List Scalar) : (s.commitReading n rs).desc = s.desc := rfl
@[simp] theorem State.commitReading_rd (n : Byte) (rs : List Scalar) : (s.commitReading n rs).rd = rs := rfl
@[simp] theorem State.commitReading_inbox (n : Byte) (rs : List Scalar) : (s.commitReading n rs).inbox = s.inbox := rfl
@[simp] theorem State.commitReading_readData (n : Byte) (rs : List Scalar) : (s.commitReading n rs).readData = s.readData := rfl

/-! `writeFb` -/

@[simp] theorem State.writeFb_params (i : Nat) (v : Byte) : (s.writeFb i v).params = s.params := rfl
@[simp] theorem State.writeFb_status (i : Nat) (v : Byte) : (s.writeFb i v).status = s.status := rfl
@[simp] theorem State.writeFb_crcOut (i : Nat) (v : Byte) : (s.writeFb i v).crcOut = s.crcOut := rfl
@[simp] theorem State.writeFb_encOut (i : Nat) (v : Byte) : (s.writeFb i v).encOut = s.encOut := rfl
@[simp] theorem State.writeFb_single (i : Nat) (v : Byte) : (s.writeFb i v).single = s.single := rfl
@[simp] theorem State.writeFb_flen (i : Nat) (v : Byte) : (s.writeFb i v).flen = s.flen := rfl
@[simp] theorem State.writeFb_nw (i : Nat) (v : Byte) : (s.writeFb i v).nw = s.nw := rfl
@[simp] theorem State.writeFb_nf (i : Nat) (v : Byte) : (s.writeFb i v).nf = s.nf := rfl
@[simp] theorem State.writeFb_rvalid (i : Nat) (v : Byte) : (s.writeFb i v).rvalid = s.rvalid := rfl
@[simp] theorem State.writeFb_rnf (i : Nat) (v : Byte) : (s.writeFb i v).rnf = s.rnf := rfl
@[simp] theorem State.writeFb_fb (i : Nat) (v : Byte) : (s.writeFb i v).fb = s.fb.write i v := rfl
@[simp] theorem State.writeFb_wval (i : Nat) (v : Byte) : (s.writeFb i v).wval = s.wval := rfl
@[simp] theorem State.writeFb_wok (i : Nat) (v : Byte) : (s.writeFb i v).wok = s.wok := rfl
@[simp] theorem State.writeFb_desc (i : Nat) (v : Byte) : (s.writeFb i v).desc = s.desc := rfl
@[simp] theorem State.writeFb_rd (i : Nat) (v : Byte) : (s.writeFb i v).rd = s.rd := rfl
@[simp] theorem State.writeFb_inbox (i : Nat) (v : Byte) : (s.writeFb i v).inbox = s.inbox := rfl
@[simp] theorem State.writeFb_readData (i : Nat) (v : Byte) : (s.writeFb i v).readData = s.readData := rfl

/-! `writeDesc` -/

@[simp] theorem State.writeDesc_params (k : Nat) (d : Desc) : (s.writeDesc k d).params = s.params := rfl
@[simp] theorem State.writeDesc_status (k : Nat) (d : Desc) : (s.writeDesc k d).status = s.status := rfl
@[simp] theorem State.writeDesc_crcOut (k : Nat) (d : Desc) : (s.writeDesc k d).crcOut = s.crcOut := rfl
@[simp] theorem State.writeDesc_encOut (k : Nat) (d : Desc) : (s.writeDesc k d).encOut = s.encOut := rfl
@[simp] theorem State.writeDesc_single (k : Nat) (d : Desc) : (s.writeDesc k d).single = s.single := rfl
@[simp] theorem State.writeDesc_flen (k : Nat) (d : Desc) : (s.writeDesc k d).flen = s.flen := rfl
@[simp] theorem State.writeDesc_nw (k : Nat) (d : Desc) : (s.writeDesc k d).nw = s.nw := rfl
@[simp] theorem State.writeDesc_nf (k : Nat) (d : Desc) : (s.writeDesc k d).nf = s.nf := rfl
@[simp] theorem State.writeDesc_rvalid (k : Nat) (d : Desc) : (s.writeDesc k d).rvalid = s.rvalid := rfl
@[simp] theorem State.writeDesc_rnf (k : Nat) (d : Desc) : (s.writeDesc k d).rnf = s.rnf := rfl
@[simp] theorem State.writeDesc_fb (k : Nat) (d : Desc) : (s.writeDesc k d).fb = s.fb := rfl
@[simp] theorem State.writeDesc_wval (k : Nat) (d : Desc) : (s.writeDesc k d).wval = s.wval := rfl
@[simp] theorem State.writeDesc_wok (k : Nat) (d : Desc) : (s.writeDesc k d).wok = s.wok := rfl
@[simp] theorem State.writeDesc_desc (k : Nat) (d : Desc) : (s.writeDesc k d).desc = s.desc.set k d := rfl
@[simp] theorem State.writeDesc_rd (k : Nat) (d : Desc) : (s.writeDesc k d).rd = s.rd := rfl
@[simp] theorem State.writeDesc_inbox (k : Nat) (d : Desc) : (s.writeDesc k d).inbox = s.inbox := rfl
@[simp] theorem State.writeDesc_readData (k : Nat) (d : Desc) : (s.writeDesc k d).readData = s.readData := rfl

/-! `setInbox` -/

@[simp] theorem State.setInbox_params (es : List HostEvent) : (s.setInbox es).params = s.params := rfl
@[simp] theorem State.setInbox_status (es : List HostEvent) : (s.setInbox es).status = s.status := rfl
@[simp] theorem State.setInbox_crcOut (es : List HostEvent) : (s.setInbox es).crcOut = s.crcOut := rfl
@[simp] theorem State.setInbox_encOut (es : List HostEvent) : (s.setInbox es).encOut = s.encOut := rfl
@[simp] theorem State.setInbox_single (es : List HostEvent) : (s.setInbox es).single = s.single := rfl
@[simp] theorem State.setInbox_flen (es : List HostEvent) : (s.setInbox es).flen = s.flen := rfl
@[simp] theorem State.setInbox_nw (es : List HostEvent) : (s.setInbox es).nw = s.nw := rfl
@[simp] theorem State.setInbox_nf (es : List HostEvent) : (s.setInbox es).nf = s.nf := rfl
@[simp] theorem State.setInbox_rvalid (es : List HostEvent) : (s.setInbox es).rvalid = s.rvalid := rfl
@[simp] theorem State.setInbox_rnf (es : List HostEvent) : (s.setInbox es).rnf = s.rnf := rfl
@[simp] theorem State.setInbox_fb (es : List HostEvent) : (s.setInbox es).fb = s.fb := rfl
@[simp] theorem State.setInbox_wval (es : List HostEvent) : (s.setInbox es).wval = s.wval := rfl
@[simp] theorem State.setInbox_wok (es : List HostEvent) : (s.setInbox es).wok = s.wok := rfl
@[simp] theorem State.setInbox_desc (es : List HostEvent) : (s.setInbox es).desc = s.desc := rfl
@[simp] theorem State.setInbox_rd (es : List HostEvent) : (s.setInbox es).rd = s.rd := rfl
@[simp] theorem State.setInbox_inbox (es : List HostEvent) : (s.setInbox es).inbox = es := rfl
@[simp] theorem State.setInbox_readData (es : List HostEvent) : (s.setInbox es).readData = s.readData := rfl

/-! `setReadData` -/

@[simp] theorem State.setReadData_params (v : HostWord) : (s.setReadData v).params = s.params := rfl
@[simp] theorem State.setReadData_status (v : HostWord) : (s.setReadData v).status = s.status := rfl
@[simp] theorem State.setReadData_crcOut (v : HostWord) : (s.setReadData v).crcOut = s.crcOut := rfl
@[simp] theorem State.setReadData_encOut (v : HostWord) : (s.setReadData v).encOut = s.encOut := rfl
@[simp] theorem State.setReadData_single (v : HostWord) : (s.setReadData v).single = s.single := rfl
@[simp] theorem State.setReadData_flen (v : HostWord) : (s.setReadData v).flen = s.flen := rfl
@[simp] theorem State.setReadData_nw (v : HostWord) : (s.setReadData v).nw = s.nw := rfl
@[simp] theorem State.setReadData_nf (v : HostWord) : (s.setReadData v).nf = s.nf := rfl
@[simp] theorem State.setReadData_rvalid (v : HostWord) : (s.setReadData v).rvalid = s.rvalid := rfl
@[simp] theorem State.setReadData_rnf (v : HostWord) : (s.setReadData v).rnf = s.rnf := rfl
@[simp] theorem State.setReadData_fb (v : HostWord) : (s.setReadData v).fb = s.fb := rfl
@[simp] theorem State.setReadData_wval (v : HostWord) : (s.setReadData v).wval = s.wval := rfl
@[simp] theorem State.setReadData_wok (v : HostWord) : (s.setReadData v).wok = s.wok := rfl
@[simp] theorem State.setReadData_desc (v : HostWord) : (s.setReadData v).desc = s.desc := rfl
@[simp] theorem State.setReadData_rd (v : HostWord) : (s.setReadData v).rd = s.rd := rfl
@[simp] theorem State.setReadData_inbox (v : HostWord) : (s.setReadData v).inbox = s.inbox := rfl
@[simp] theorem State.setReadData_readData (v : HostWord) : (s.setReadData v).readData = v := rfl

/-! `writeFlen`: the register keeps its value when the new one is out of range -/

@[simp] theorem State.writeFlen_params (v : Byte) : (s.writeFlen v).params = s.params := by unfold State.writeFlen; split <;> rfl
@[simp] theorem State.writeFlen_status (v : Byte) : (s.writeFlen v).status = s.status := by unfold State.writeFlen; split <;> rfl
@[simp] theorem State.writeFlen_crcOut (v : Byte) : (s.writeFlen v).crcOut = s.crcOut := by unfold State.writeFlen; split <;> rfl
@[simp] theorem State.writeFlen_encOut (v : Byte) : (s.writeFlen v).encOut = s.encOut := by unfold State.writeFlen; split <;> rfl
@[simp] theorem State.writeFlen_single (v : Byte) : (s.writeFlen v).single = s.single := by unfold State.writeFlen; split <;> rfl
@[simp] theorem State.writeFlen_flen (v : Byte) : (s.writeFlen v).flen = if s.params.maxFrameBytes < v.toNat then s.flen else v := by unfold State.writeFlen; split <;> rfl
@[simp] theorem State.writeFlen_nw (v : Byte) : (s.writeFlen v).nw = s.nw := by unfold State.writeFlen; split <;> rfl
@[simp] theorem State.writeFlen_nf (v : Byte) : (s.writeFlen v).nf = s.nf := by unfold State.writeFlen; split <;> rfl
@[simp] theorem State.writeFlen_rvalid (v : Byte) : (s.writeFlen v).rvalid = s.rvalid := by unfold State.writeFlen; split <;> rfl
@[simp] theorem State.writeFlen_rnf (v : Byte) : (s.writeFlen v).rnf = s.rnf := by unfold State.writeFlen; split <;> rfl
@[simp] theorem State.writeFlen_fb (v : Byte) : (s.writeFlen v).fb = s.fb := by unfold State.writeFlen; split <;> rfl
@[simp] theorem State.writeFlen_wval (v : Byte) : (s.writeFlen v).wval = s.wval := by unfold State.writeFlen; split <;> rfl
@[simp] theorem State.writeFlen_wok (v : Byte) : (s.writeFlen v).wok = s.wok := by unfold State.writeFlen; split <;> rfl
@[simp] theorem State.writeFlen_desc (v : Byte) : (s.writeFlen v).desc = s.desc := by unfold State.writeFlen; split <;> rfl
@[simp] theorem State.writeFlen_rd (v : Byte) : (s.writeFlen v).rd = s.rd := by unfold State.writeFlen; split <;> rfl
@[simp] theorem State.writeFlen_inbox (v : Byte) : (s.writeFlen v).inbox = s.inbox := by unfold State.writeFlen; split <;> rfl
@[simp] theorem State.writeFlen_readData (v : Byte) : (s.writeFlen v).readData = s.readData := by unfold State.writeFlen; split <;> rfl

/-! `writeNf`: the register keeps its value when the new one is out of range -/

@[simp] theorem State.writeNf_params (v : Byte) : (s.writeNf v).params = s.params := by unfold State.writeNf; split <;> rfl
@[simp] theorem State.writeNf_status (v : Byte) : (s.writeNf v).status = s.status := by unfold State.writeNf; split <;> rfl
@[simp] theorem State.writeNf_crcOut (v : Byte) : (s.writeNf v).crcOut = s.crcOut := by unfold State.writeNf; split <;> rfl
@[simp] theorem State.writeNf_encOut (v : Byte) : (s.writeNf v).encOut = s.encOut := by unfold State.writeNf; split <;> rfl
@[simp] theorem State.writeNf_single (v : Byte) : (s.writeNf v).single = s.single := by unfold State.writeNf; split <;> rfl
@[simp] theorem State.writeNf_flen (v : Byte) : (s.writeNf v).flen = s.flen := by unfold State.writeNf; split <;> rfl
@[simp] theorem State.writeNf_nw (v : Byte) : (s.writeNf v).nw = s.nw := by unfold State.writeNf; split <;> rfl
@[simp] theorem State.writeNf_nf (v : Byte) : (s.writeNf v).nf = if s.params.maxFields < v.toNat then s.nf else v := by unfold State.writeNf; split <;> rfl
@[simp] theorem State.writeNf_rvalid (v : Byte) : (s.writeNf v).rvalid = s.rvalid := by unfold State.writeNf; split <;> rfl
@[simp] theorem State.writeNf_rnf (v : Byte) : (s.writeNf v).rnf = s.rnf := by unfold State.writeNf; split <;> rfl
@[simp] theorem State.writeNf_fb (v : Byte) : (s.writeNf v).fb = s.fb := by unfold State.writeNf; split <;> rfl
@[simp] theorem State.writeNf_wval (v : Byte) : (s.writeNf v).wval = s.wval := by unfold State.writeNf; split <;> rfl
@[simp] theorem State.writeNf_wok (v : Byte) : (s.writeNf v).wok = s.wok := by unfold State.writeNf; split <;> rfl
@[simp] theorem State.writeNf_desc (v : Byte) : (s.writeNf v).desc = s.desc := by unfold State.writeNf; split <;> rfl
@[simp] theorem State.writeNf_rd (v : Byte) : (s.writeNf v).rd = s.rd := by unfold State.writeNf; split <;> rfl
@[simp] theorem State.writeNf_inbox (v : Byte) : (s.writeNf v).inbox = s.inbox := by unfold State.writeNf; split <;> rfl
@[simp] theorem State.writeNf_readData (v : Byte) : (s.writeNf v).readData = s.readData := by unfold State.writeNf; split <;> rfl

/-! `resetRegisters` -/

@[simp] theorem State.resetRegisters_params : s.resetRegisters.params = s.params := rfl
@[simp] theorem State.resetRegisters_status : s.resetRegisters.status = (State.resetWith s.params).status := rfl
@[simp] theorem State.resetRegisters_crcOut : s.resetRegisters.crcOut = (State.resetWith s.params).crcOut := rfl
@[simp] theorem State.resetRegisters_encOut : s.resetRegisters.encOut = (State.resetWith s.params).encOut := rfl
@[simp] theorem State.resetRegisters_single : s.resetRegisters.single = (State.resetWith s.params).single := rfl
@[simp] theorem State.resetRegisters_flen : s.resetRegisters.flen = (State.resetWith s.params).flen := rfl
@[simp] theorem State.resetRegisters_nw : s.resetRegisters.nw = (State.resetWith s.params).nw := rfl
@[simp] theorem State.resetRegisters_nf : s.resetRegisters.nf = (State.resetWith s.params).nf := rfl
@[simp] theorem State.resetRegisters_rvalid : s.resetRegisters.rvalid = (State.resetWith s.params).rvalid := rfl
@[simp] theorem State.resetRegisters_rnf : s.resetRegisters.rnf = (State.resetWith s.params).rnf := rfl
@[simp] theorem State.resetRegisters_fb : s.resetRegisters.fb = (State.resetWith s.params).fb := rfl
@[simp] theorem State.resetRegisters_wval : s.resetRegisters.wval = (State.resetWith s.params).wval := rfl
@[simp] theorem State.resetRegisters_wok : s.resetRegisters.wok = (State.resetWith s.params).wok := rfl
@[simp] theorem State.resetRegisters_desc : s.resetRegisters.desc = (State.resetWith s.params).desc := rfl
@[simp] theorem State.resetRegisters_rd : s.resetRegisters.rd = (State.resetWith s.params).rd := rfl
@[simp] theorem State.resetRegisters_inbox : s.resetRegisters.inbox = s.inbox := rfl
@[simp] theorem State.resetRegisters_readData : s.resetRegisters.readData = s.readData := rfl

/-! `resetWith` -/

@[simp] theorem State.resetWith_params (p : Params) : (State.resetWith p).params = p := rfl
@[simp] theorem State.resetWith_status (p : Params) : (State.resetWith p).status = ⟨.ok, false, 0, 0⟩ := rfl
@[simp] theorem State.resetWith_crcOut (p : Params) : (State.resetWith p).crcOut = 0 := rfl
@[simp] theorem State.resetWith_encOut (p : Params) : (State.resetWith p).encOut = 0 := rfl
@[simp] theorem State.resetWith_single (p : Params) : (State.resetWith p).single = Scalar.empty := rfl
@[simp] theorem State.resetWith_flen (p : Params) : (State.resetWith p).flen = 0 := rfl
@[simp] theorem State.resetWith_nw (p : Params) : (State.resetWith p).nw = 0 := rfl
@[simp] theorem State.resetWith_nf (p : Params) : (State.resetWith p).nf = 0 := rfl
@[simp] theorem State.resetWith_rvalid (p : Params) : (State.resetWith p).rvalid = false := rfl
@[simp] theorem State.resetWith_rnf (p : Params) : (State.resetWith p).rnf = 0 := rfl
@[simp] theorem State.resetWith_fb (p : Params) : (State.resetWith p).fb = [] := rfl
@[simp] theorem State.resetWith_wval (p : Params) : (State.resetWith p).wval = List.replicate p.maxWords 0 := rfl
@[simp] theorem State.resetWith_wok (p : Params) : (State.resetWith p).wok = List.replicate p.maxWords false := rfl
@[simp] theorem State.resetWith_desc (p : Params) : (State.resetWith p).desc = List.replicate p.maxFields 0 := rfl
@[simp] theorem State.resetWith_rd (p : Params) : (State.resetWith p).rd = List.replicate p.maxFields Scalar.empty := rfl
@[simp] theorem State.resetWith_inbox (p : Params) : (State.resetWith p).inbox = [] := rfl
@[simp] theorem State.resetWith_readData (p : Params) : (State.resetWith p).readData = 0 := rfl

/-! The updates of the host's side change no other thing, in whatever order. -/

@[simp] theorem State.setInbox_setInbox (es fs : List HostEvent) : (s.setInbox es).setInbox fs = s.setInbox fs := rfl
@[simp] theorem State.setInbox_self : s.setInbox s.inbox = s := rfl
@[simp] theorem State.setReadData_setReadData (v w : HostWord) : (s.setReadData v).setReadData w = s.setReadData w := rfl

end Sys2Proof.Machine
end

