-- ==== Sys2Proof/Laws/Memory.lean ====
section
/-! SUPPORT. The laws of the frame buffer: read after write, the canonical form and the address bound are kept by every
write, and two canonical memories that read alike are equal. -/

namespace Sys2Proof.Machine

@[simp] theorem Memory.read_nil (a : Nat) : Memory.read [] a = Memory.unlisted := rfl

@[simp] theorem Memory.read_cons (b : Nat) (v : Byte) (m : Memory) (a : Nat) :
    Memory.read ((b, v) :: m) a = if a = b then v else m.read a := rfl

theorem Memory.wf_nil : Memory.wf [] := by simp [Memory.wf]

/-- The canonical form of a list with a head: the head is listed, below every later address, and the rest is canonical. -/
theorem Memory.wf_cons {b : Nat} {v : Byte} {m : Memory} :
    Memory.wf ((b, v) :: m) ↔ (∀ c ∈ m, b < c.1) ∧ v ≠ Memory.unlisted ∧ m.wf := by
  simp only [Memory.wf, List.pairwise_cons, List.forall_mem_cons]
  tauto

/-- An address below every listed one reads as unlisted. -/
theorem Memory.read_of_lt {m : Memory} {a : Nat} (h : ∀ c ∈ m, a < c.1) : m.read a = Memory.unlisted := by
  induction m with
  | nil => rfl
  | cons c m ih =>
    obtain ⟨b, v⟩ := c
    have hb : a < b := h (b, v) (by simp)
    rw [Memory.read_cons, if_neg (by omega), ih fun c hc => h c (by simp [hc])]

/-- `place` puts the byte at `a` in front of a list of later addresses. -/
theorem Memory.read_place {m : Memory} {a : Nat} (v : Byte) (h : ∀ c ∈ m, a < c.1) (x : Nat) :
    (Memory.place a v m).read x = if x = a then v else m.read x := by
  unfold Memory.place
  split
  · next hv =>
    split
    · next hx => rw [hx, Memory.read_of_lt h, hv]
    · rfl
  · rfl

/-- What `write` does to what is read: the one address gets the byte, every other reads as before (spec R40). -/
theorem Memory.read_write {m : Memory} (h : m.wf) (a : Nat) (v : Byte) (x : Nat) :
    (m.write a v).read x = if x = a then v else m.read x := by
  induction m with
  | nil => exact Memory.read_place v (by simp) x
  | cons c m ih =>
    obtain ⟨b, w⟩ := c
    obtain ⟨hlt, -, hm⟩ := Memory.wf_cons.1 h
    unfold Memory.write
    split
    · next hab =>
      exact Memory.read_place v (by
        intro c hc
        rcases List.mem_cons.1 hc with rfl | hc
        · exact hab
        · exact hab.trans (hlt c hc)) x
    · split
      · next hab =>
        subst hab
        rw [Memory.read_place v hlt, Memory.read_cons]
        split <;> rfl
      · next hab =>
        rw [Memory.read_cons, Memory.read_cons, ih hm]
        split
        · next hx => rw [if_neg (by omega)]
        · rfl

@[simp] theorem Memory.read_write_same {m : Memory} (h : m.wf) (a : Nat) (v : Byte) : (m.write a v).read a = v := by
  simp [Memory.read_write h]

theorem Memory.read_write_other {m : Memory} (h : m.wf) {a x : Nat} (v : Byte) (hx : x ≠ a) :
    (m.write a v).read x = m.read x := by
  simp [Memory.read_write h, hx]

theorem Memory.mem_place {m : Memory} {a : Nat} {v : Byte} {c : Host.Cell} (h : c ∈ Memory.place a v m) :
    c.1 = a ∨ c ∈ m := by
  unfold Memory.place at h
  split at h
  · exact .inr h
  · rcases List.mem_cons.1 h with rfl | h
    · exact .inl rfl
    · exact .inr h

/-- A write lists no address but the one written and those listed before. -/
theorem Memory.mem_write {m : Memory} {a : Nat} {v : Byte} {c : Host.Cell} (h : c ∈ m.write a v) :
    c.1 = a ∨ c ∈ m := by
  induction m with
  | nil => exact Memory.mem_place h
  | cons d m ih =>
    obtain ⟨b, w⟩ := d
    unfold Memory.write at h
    split at h
    · exact Memory.mem_place h
    · split at h
      · exact (Memory.mem_place h).imp_right fun h => List.mem_cons_of_mem _ h
      · rcases List.mem_cons.1 h with rfl | h
        · exact .inr (by simp)
        · exact (ih h).imp_right fun h => List.mem_cons_of_mem _ h

theorem Memory.wf_place {m : Memory} {a : Nat} {v : Byte} (hm : m.wf) (h : ∀ c ∈ m, a < c.1) :
    (Memory.place a v m).wf := by
  unfold Memory.place
  split
  · exact hm
  · next hv => exact Memory.wf_cons.2 ⟨h, hv, hm⟩

/-- A write keeps the canonical form. -/
theorem Memory.wf_write {m : Memory} (h : m.wf) (a : Nat) (v : Byte) : (m.write a v).wf := by
  induction m with
  | nil => exact Memory.wf_place h (by simp)
  | cons c m ih =>
    obtain ⟨b, w⟩ := c
    obtain ⟨hlt, hw, hm⟩ := Memory.wf_cons.1 h
    unfold Memory.write
    split
    · next hab =>
      exact Memory.wf_place h (by
        intro c hc
        rcases List.mem_cons.1 hc with rfl | hc
        · exact hab
        · exact hab.trans (hlt c hc))
    · split
      · next hab => exact Memory.wf_place hm (hab ▸ hlt)
      · next h1 h2 =>
        refine Memory.wf_cons.2 ⟨fun c hc => ?_, hw, ih hm⟩
        rcases Memory.mem_write hc with h | h
        · omega
        · exact hlt c h

/-- A write inside the frame buffer keeps the address bound. -/
theorem Memory.bound_write {m : Memory} {n : Nat} (h : ∀ c ∈ m, c.1 < n) {a : Nat} (ha : a < n) (v : Byte) :
    ∀ c ∈ m.write a v, c.1 < n := by
  intro c hc
  rcases Memory.mem_write hc with h' | h'
  · omega
  · exact h c h'

/-- Canonical memories that read alike at every address are equal. -/
theorem Memory.ext_of_wf {m n : Memory} (hm : m.wf) (hn : n.wf) (h : ∀ a, m.read a = n.read a) : m = n := by
  induction m generalizing n with
  | nil =>
    cases n with
    | nil => rfl
    | cons d n =>
      obtain ⟨c, w⟩ := d
      obtain ⟨-, hw, -⟩ := Memory.wf_cons.1 hn
      exact absurd (h c).symm (by simpa using hw)
  | cons d m ih =>
    obtain ⟨b, v⟩ := d
    obtain ⟨hbm, hv, hm'⟩ := Memory.wf_cons.1 hm
    cases n with
    | nil => exact absurd (h b) (by simpa using hv)
    | cons e n =>
      obtain ⟨c, w⟩ := e
      obtain ⟨hcn, hw, hn'⟩ := Memory.wf_cons.1 hn
      have hb := h b
      have hc := h c
      simp only [Memory.read_cons, if_true] at hb hc
      have hbc : b = c := by
        rcases Nat.lt_trichotomy b c with hlt | heq | hgt
        · rw [if_neg (by omega), Memory.read_of_lt fun x hx => hlt.trans (hcn x hx)] at hb
          exact absurd hb hv
        · exact heq
        · rw [if_neg (by omega), Memory.read_of_lt fun x hx => hgt.trans (hbm x hx)] at hc
          exact absurd hc.symm hw
      subst hbc
      simp only [if_true] at hb
      have hrest : m = n := ih hm' hn' fun a => by
        by_cases ha : a = b
        · subst ha
          rw [Memory.read_of_lt hbm, Memory.read_of_lt hcn]
        · simpa [ha] using h a
      rw [hb, hrest]

/-- `MemRead` answers exactly when the bytes lie in FB (spec R10). -/
theorem readGroups_eq_some {s : State} {b n : Nat} {gs : List Group} :
    readGroups s b n = some gs ↔
      b + 3 * n ≤ s.params.maxFrameBytes ∧ gs = (List.range n).map fun j => groupAt s.fb (b + 3 * j) := by
  unfold readGroups
  split
  · next h => simp [h, eq_comm]
  · next h => simp [h]

theorem readGroups_eq_none {s : State} {b n : Nat} :
    readGroups s b n = none ↔ s.params.maxFrameBytes < b + 3 * n := by
  unfold readGroups
  split <;> simp <;> omega

end Sys2Proof.Machine
end

