-- ==== Sys2Proof/Laws/Extract.lean ====
section
/-! SUPPORT. What the checks of a field and `field_decode` can answer, said once: the callers cite these and do not unfold
the checks. -/

namespace Sys2Proof.Machine

/-- A descriptor that passes the structure check has one of three shapes (spec R76). -/
theorem structureFails_eq_false {d : Desc} :
    structureFails d = false ↔
      (descMode d = .float32 ∧ descWcnt d = 2 ∨ descMode d = .fixed ∧ descWcnt d = 1 ∨
        descMode d = .idiv ∧ descWcnt d = 1 ∧ descDiv d ≠ 0) ∧ descOff d % 3 = 0 := by
  unfold structureFails
  cases h : descMode d <;> simp <;> omega

/-- The reserved mode never passes: the last arm of `decodeScalar` is not used (spec R58). -/
theorem structureFails_of_reserved {d : Desc} (h : descMode d = .reserved) : structureFails d = true := by
  simp [structureFails, h]

theorem frameFailure_eq_none {s : State} : frameFailure s = none ↔ s.flen.toNat % 3 = 0 := by
  unfold frameFailure
  split <;> simp_all

theorem frameFailure_eq_some {s : State} {f : Failure} :
    frameFailure s = some f ↔ s.flen.toNat % 3 ≠ 0 ∧ f = ⟨.frameLength, 0, 0⟩ := by
  unfold frameFailure
  split <;> simp_all [eq_comm]

theorem configFailure_eq_none {s : State} {k : Nat} : configFailure s k = none ↔ FieldLegal s k := by
  unfold configFailure FieldLegal rangeFails
  cases structureFails (s.descAt k) <;> simp

theorem configFailure_eq_some {s : State} {k : Nat} {f : Failure} :
    configFailure s k = some f ↔
      structureFails (s.descAt k) = true ∧ f = fieldFailure s .descriptor k ∨
      structureFails (s.descAt k) = false ∧ s.flen.toNat < descEnd (s.descAt k) ∧ f = fieldFailure s .fieldRange k := by
  unfold configFailure rangeFails
  cases structureFails (s.descAt k)
  · by_cases h : s.flen.toNat < descEnd (s.descAt k) <;> simp [h, eq_comm]
  · simp [eq_comm]

/-- The words of a field, in order (spec R74). -/
theorem fieldWords_eq_ok {s : State} {k : Nat} {ws : List Word} :
    fieldWords s k = .ok ws ↔
      descEnd (s.descAt k) ≤ s.params.maxFrameBytes ∧ FieldValid s k ∧
        ws = (List.range (descWcnt (s.descAt k))).map fun j => (fieldGroup s k j).value := by
  unfold fieldWords readGroups descEnd
  by_cases h : descOff (s.descAt k) + 3 * descWcnt (s.descAt k) ≤ s.params.maxFrameBytes
  · by_cases hv : FieldValid s k
    · have : (((List.range (descWcnt (s.descAt k))).map fun j => groupAt s.fb (descOff (s.descAt k) + 3 * j)).all
          Group.ok) = true := by
        simpa [FieldValid, fieldGroup] using hv
      simp [h, hv, this, eq_comm, fieldGroup, Function.comp_def]
    · have : (((List.range (descWcnt (s.descAt k))).map fun j => groupAt s.fb (descOff (s.descAt k) + 3 * j)).all
          Group.ok) = false := by
        rw [← Bool.not_eq_true]
        simpa [FieldValid, fieldGroup] using hv
      simp [h, hv, this]
  · simp [h]

theorem fieldWords_eq_fail {s : State} {k : Nat} {f : Failure} :
    fieldWords s k = .fail f ↔
      descEnd (s.descAt k) ≤ s.params.maxFrameBytes ∧ ¬ FieldValid s k ∧ f = fieldFailure s .checksum k := by
  unfold fieldWords readGroups descEnd
  by_cases h : descOff (s.descAt k) + 3 * descWcnt (s.descAt k) ≤ s.params.maxFrameBytes
  · by_cases hv : FieldValid s k
    · have : (((List.range (descWcnt (s.descAt k))).map fun j => groupAt s.fb (descOff (s.descAt k) + 3 * j)).all
          Group.ok) = true := by
        simpa [FieldValid, fieldGroup] using hv
      simp [h, hv, this]
    · have : (((List.range (descWcnt (s.descAt k))).map fun j => groupAt s.fb (descOff (s.descAt k) + 3 * j)).all
          Group.ok) = false := by
        rw [← Bool.not_eq_true]
        simpa [FieldValid, fieldGroup] using hv
      simp [h, hv, this, eq_comm]
  · simp [h]

theorem fieldWords_eq_fault {s : State} {k : Nat} {f : Fault} :
    fieldWords s k = .fault f ↔ s.params.maxFrameBytes < descEnd (s.descAt k) := by
  unfold fieldWords readGroups descEnd
  cases f
  split
  · next h => split at h <;> simp_all
  · next h =>
    split at h
    · split <;> simp <;> omega
    · simp at h

/-- `field_decode(k)` gives a scalar exactly when every check passes (spec R79). -/
theorem fieldDecode_eq_ok {s : State} {k : Nat} {r : Scalar} :
    fieldDecode s k = .ok r ↔
      FieldLegal s k ∧ descEnd (s.descAt k) ≤ s.params.maxFrameBytes ∧ FieldValid s k ∧
        r = decodeScalar (s.descAt k)
          ((List.range (descWcnt (s.descAt k))).map fun j => (fieldGroup s k j).value) := by
  unfold fieldDecode
  cases hc : configFailure s k with
  | some f =>
    have : ¬ FieldLegal s k := fun h => by simp [configFailure_eq_none.2 h] at hc
    simp [this]
  | none =>
    have hl := configFailure_eq_none.1 hc
    cases hw : fieldWords s k with
    | fault f =>
      have := fieldWords_eq_fault.1 hw
      simp; omega
    | fail f =>
      have := (fieldWords_eq_fail.1 hw).2.1
      simp [this]
    | ok ws =>
      obtain ⟨h1, h2, h3⟩ := fieldWords_eq_ok.1 hw
      simp [hl, h1, h2, h3, eq_comm]

/-- `field_decode(k)` fails in one of three ways (spec R79). -/
theorem fieldDecode_eq_fail {s : State} {k : Nat} {f : Failure} :
    fieldDecode s k = .fail f ↔
      configFailure s k = some f ∨
      FieldLegal s k ∧ descEnd (s.descAt k) ≤ s.params.maxFrameBytes ∧ ¬ FieldValid s k ∧
        f = fieldFailure s .checksum k := by
  unfold fieldDecode
  cases hc : configFailure s k with
  | some g =>
    have : ¬ FieldLegal s k := fun h => by simp [configFailure_eq_none.2 h] at hc
    simp [this]
  | none =>
    have hl := configFailure_eq_none.1 hc
    cases hw : fieldWords s k with
    | fault f =>
      have := fieldWords_eq_fault.1 hw
      simp; omega
    | fail g =>
      obtain ⟨h1, h2, h3⟩ := fieldWords_eq_fail.1 hw
      simp [hl, h1, h2, h3, eq_comm]
    | ok ws =>
      obtain ⟨h1, h2, h3⟩ := fieldWords_eq_ok.1 hw
      simp [h2]

/-- `field_decode(k)` faults only where FLEN reaches past the frame buffer, which no run shows (spec R23, R77). -/
theorem fieldDecode_eq_fault {s : State} {k : Nat} {f : Fault} :
    fieldDecode s k = .fault f ↔ FieldLegal s k ∧ s.params.maxFrameBytes < descEnd (s.descAt k) := by
  unfold fieldDecode
  cases hc : configFailure s k with
  | some g =>
    have : ¬ FieldLegal s k := fun h => by simp [configFailure_eq_none.2 h] at hc
    simp [this]
  | none =>
    have hl := configFailure_eq_none.1 hc
    cases f
    cases hw : fieldWords s k with
    | fault f => cases f; simp [hl, fieldWords_eq_fault.1 hw]
    | fail g =>
      have := (fieldWords_eq_fail.1 hw).1
      simp; omega
    | ok ws =>
      have := (fieldWords_eq_ok.1 hw).1
      simp; omega

/-- Everything EXTRACT can answer, in one place (spec R80). -/
theorem execExtract_cases (k : Byte) (s : State) :
    (∃ f, extractResult k s = .fault f ∧ execExtract k s = .fault f) ∨
    (∃ f, extractResult k s = .fail f ∧ execExtract k s = .next (s.clearSingle.raise f)) ∨
    (∃ r, extractResult k s = .ok r ∧ execExtract k s = .next ((s.setSingle r).finishOk true)) := by
  unfold execExtract
  cases extractResult k s with
  | fault f => exact .inl ⟨f, rfl, rfl⟩
  | fail f => exact .inr (.inl ⟨f, rfl, rfl⟩)
  | ok r => exact .inr (.inr ⟨r, rfl, rfl⟩)

end Sys2Proof.Machine
end

