-- ==== Sys2Proof/Laws/HostPort.lean ====
section
/-! SUPPORT. The register map by name, and membership in the lists of registers that Safety.lean names. -/

namespace Sys2Proof.Machine

/-- An index names only a register the map holds. -/
theorem mapped_of_regAt {p : Params} {index : RegIndex} {r : Reg} (h : regAt p index = some r) : r.mapped p = true := by
  unfold regAt at h
  exact (Option.filter_eq_some_iff.1 h).2

@[simp] theorem regAt_cmd (p : Params) : regAt p 0x000 = some .cmd := rfl
@[simp] theorem regAt_flen (p : Params) : regAt p 0x009 = some .flen := rfl
@[simp] theorem regAt_nf (p : Params) : regAt p 0x00B = some .nf := rfl

/-- The index of a register of a legal block fits the port. -/
theorem Reg.index_lt {p : Params} (hp : p.legal) {r : Reg} (hr : r.mapped p = true) : r.index < 2 ^ 16 := by
  obtain ⟨-, h1, -, h2⟩ := hp
  have h3 : p.maxWords ≤ 85 := by unfold Params.maxWords; omega
  cases r <;> simp only [Reg.mapped, decide_eq_true_eq] at hr <;> simp only [Reg.index] <;> omega

theorem Reg.port_toNat {p : Params} (hp : p.legal) {r : Reg} (hr : r.mapped p = true) : r.port.toNat = r.index := by
  rw [Reg.port, BitVec.toNat_ofNat, Nat.mod_eq_of_lt (Reg.index_lt hp hr)]

theorem notMem_wordRegs {p : Params} {r : Reg} :
    r ∉ wordRegs p ↔ r ≠ .nw ∧ (∀ j < p.maxWords, r ≠ .wval j) ∧ ∀ j < p.maxWords, r ≠ .wok j := by
  simp [wordRegs, eq_comm]

theorem notMem_readingRegs {p : Params} {r : Reg} :
    r ∉ readingRegs p ↔ r ≠ .rvalid ∧ r ≠ .rnf ∧
      ∀ k < p.maxFields, r ≠ .rdKind k ∧ r ≠ .rdBits k ∧ r ≠ .rdNum k ∧ r ≠ .rdDen k ∧ r ≠ .rdTag k := by
  simp [readingRegs]

/-- A next state is the same outcome under `mapNext`. -/
@[simp] theorem mapNext_next (f : State → State) (t : State) : mapNext f (.next t) = .next (f t) := rfl

/-- `performAll` on an event and the rest. -/
theorem performAll_cons_of_next {s t : State} {e : HostEvent} {es : List HostEvent} (h : perform s e = .next t) :
    performAll s (e :: es) = performAll t es := by
  simp [performAll, h]

/-- What a step does on a nonempty inbox, and on an empty one. -/
theorem step_of_inbox_cons {s : State} {e : HostEvent} {rest : List HostEvent} (h : s.inbox = e :: rest) :
    step s = perform (s.setInbox rest) e := by
  simp [step, performNext, h]

theorem step_of_inbox_nil {s : State} (h : s.inbox = []) : step s = .next s := by
  simp [step, performNext, h]

end Sys2Proof.Machine
end

