-- ==== Sys2Proof/Laws/PerInstr.lean ====
section
/-! SUPPORT. Facts about every command as syntax, one lemma per constructor. -/

namespace Sys2Proof.Laws.EncodesInItsRow

/-- The OP field of the command's word is the OP of a row of the opcode table with the command's mnemonic (spec R53). -/
def Statement (i : Instr) : Prop :=
  ∃ r ∈ opcodeTable, r.mnemonic = i.mnemonic ∧ opField (encode i) = opField r.pattern

theorem crc8 (a b : Byte) : Statement (.crc8 a b) :=
  ⟨⟨"CRC8", 0x10000000, 0xF0000000⟩, by decide, rfl, opField_formatP _ _ _ _⟩

theorem check (a b c : Byte) : Statement (.check a b c) :=
  ⟨⟨"CHECK", 0x20000000, 0xF0000000⟩, by decide, rfl, opField_formatP _ _ _ _⟩

theorem wenc (v : Word) : Statement (.wenc v) :=
  ⟨⟨"WENC", 0x30000000, 0xF0000000⟩, by decide, rfl, opField_formatV _ _⟩

theorem wdec : Statement .wdec :=
  ⟨⟨"WDEC", 0x40000000, 0xF0000000⟩, by decide, rfl, opField_formatN _⟩

theorem extract (k : Byte) : Statement (.extract k) :=
  ⟨⟨"EXTRACT", 0x50000000, 0xF0000000⟩, by decide, rfl, opField_formatK _ _⟩

theorem reading : Statement .reading :=
  ⟨⟨"READING", 0x60000000, 0xF0000000⟩, by decide, rfl, opField_formatN _⟩

theorem illegal0 : Statement .illegal0 :=
  ⟨⟨"ILLEGAL", 0x00000000, 0xF0000000⟩, by decide, rfl, opField_formatN _⟩

theorem illegal7 : Statement .illegal7 :=
  ⟨⟨"ILLEGAL", 0x70000000, 0xF0000000⟩, by decide, rfl, opField_formatN _⟩

theorem illegal8 : Statement .illegal8 :=
  ⟨⟨"ILLEGAL", 0x80000000, 0xF0000000⟩, by decide, rfl, opField_formatN _⟩

theorem illegal9 : Statement .illegal9 :=
  ⟨⟨"ILLEGAL", 0x90000000, 0xF0000000⟩, by decide, rfl, opField_formatN _⟩

theorem illegalA : Statement .illegalA :=
  ⟨⟨"ILLEGAL", 0xA0000000, 0xF0000000⟩, by decide, rfl, opField_formatN _⟩

theorem illegalB : Statement .illegalB :=
  ⟨⟨"ILLEGAL", 0xB0000000, 0xF0000000⟩, by decide, rfl, opField_formatN _⟩

theorem illegalC : Statement .illegalC :=
  ⟨⟨"ILLEGAL", 0xC0000000, 0xF0000000⟩, by decide, rfl, opField_formatN _⟩

theorem illegalD : Statement .illegalD :=
  ⟨⟨"ILLEGAL", 0xD0000000, 0xF0000000⟩, by decide, rfl, opField_formatN _⟩

theorem illegalE : Statement .illegalE :=
  ⟨⟨"ILLEGAL", 0xE0000000, 0xF0000000⟩, by decide, rfl, opField_formatN _⟩

theorem illegalF : Statement .illegalF :=
  ⟨⟨"ILLEGAL", 0xF0000000, 0xF0000000⟩, by decide, rfl, opField_formatN _⟩

end Sys2Proof.Laws.EncodesInItsRow
end

