-- ==== Sys2Proof/Laws/Reading.lean ====
section
/-! SUPPORT. What the phases of READING can answer, said once. -/

namespace Sys2Proof.Machine

theorem overlapFailure_eq_none {s : State} {k : Nat} :
    overlapFailure s k = none ↔ ∀ j < k, overlaps (s.descAt k) (s.descAt j) = false := by
  unfold overlapFailure
  split
  · next h => simpa using h
  · next h => simpa using h

theorem overlapFailure_eq_some {s : State} {k : Nat} {f : Failure} :
    overlapFailure s k = some f ↔
      (∃ j < k, overlaps (s.descAt k) (s.descAt j) = true) ∧ f = fieldFailure s .descriptor k := by
  unfold overlapFailure
  split
  · next h =>
    have h' : ∃ j < k, overlaps (s.descAt k) (s.descAt j) = true := by simpa using h
    exact ⟨fun e => ⟨h', (Option.some.inj e).symm⟩, fun e => by rw [e.2]⟩
  · next h =>
    have h' : ¬ ∃ j < k, overlaps (s.descAt k) (s.descAt j) = true := by simpa using h
    simp [h']

theorem coverageFailure_eq_none {s : State} : coverageFailure s = none ↔ s.totalSpan = s.flen.toNat := by
  unfold coverageFailure
  split <;> simp_all

theorem coverageFailure_eq_some {s : State} {f : Failure} :
    coverageFailure s = some f ↔ s.totalSpan ≠ s.flen.toNat ∧ f = ⟨.descriptor, s.nf, 0⟩ := by
  unfold coverageFailure
  split <;> simp_all [eq_comm]

/-- Phases 1 to 3 pass exactly when the whole table is legal (spec R93, items 1 to 3). -/
theorem readingConfigFailure_eq_none {s : State} : readingConfigFailure s = none ↔ TableLegal s := by
  simp only [readingConfigFailure, TableLegal, LayoutLegal, State.fields, Option.or_eq_none_iff,
    List.findSome?_eq_none_iff, List.mem_range, frameFailure_eq_none, configFailure_eq_none, overlapFailure_eq_none,
    coverageFailure_eq_none]

/-- Phase 4 passes exactly when every word of every field listed lies in FB and is valid. -/
theorem checkFields_eq_ok {s : State} {ks : List Nat} :
    checkFields s ks = .ok () ↔
      ∀ k ∈ ks, descEnd (s.descAt k) ≤ s.params.maxFrameBytes ∧ FieldValid s k := by
  induction ks with
  | nil => simp [checkFields]
  | cons k ks ih =>
    unfold checkFields
    cases hw : fieldWords s k with
    | fault f =>
      have := fieldWords_eq_fault.1 hw
      simp; omega
    | fail f =>
      have := (fieldWords_eq_fail.1 hw).2.1
      simp [this]
    | ok ws =>
      obtain ⟨h1, h2, -⟩ := fieldWords_eq_ok.1 hw
      simp [h1, h2, ih]

/-- Phase 4 stops at the first field with an invalid word (spec R93, item 4). -/
theorem checkFields_eq_fail {s : State} {ks : List Nat} {f : Failure} (h : checkFields s ks = .fail f) :
    ∃ pre k post, ks = pre ++ k :: post ∧ (∀ j ∈ pre, FieldValid s j) ∧ ¬ FieldValid s k ∧
      f = fieldFailure s .checksum k := by
  induction ks with
  | nil => simp [checkFields] at h
  | cons k ks ih =>
    unfold checkFields at h
    cases hw : fieldWords s k with
    | fault g => simp [hw] at h
    | fail g =>
      obtain ⟨-, h2, h3⟩ := fieldWords_eq_fail.1 hw
      simp only [hw, Attempt.fail.injEq] at h
      exact ⟨[], k, ks, rfl, by simp, h2, h ▸ h3⟩
    | ok ws =>
      simp only [hw] at h
      obtain ⟨pre, j, post, rfl, h1, h2, h3⟩ := ih h
      refine ⟨k :: pre, j, post, rfl, ?_, h2, h3⟩
      intro i hi
      rcases List.mem_cons.1 hi with rfl | hi
      · exact (fieldWords_eq_ok.1 hw).2.1
      · exact h1 i hi

/-- Phase 4 faults only where a field reaches past the frame buffer. -/
theorem checkFields_eq_fault {s : State} {ks : List Nat} {f : Fault} (h : checkFields s ks = .fault f) :
    ∃ k ∈ ks, s.params.maxFrameBytes < descEnd (s.descAt k) := by
  induction ks with
  | nil => simp [checkFields] at h
  | cons k ks ih =>
    unfold checkFields at h
    cases hw : fieldWords s k with
    | fault g => exact ⟨k, by simp, fieldWords_eq_fault.1 hw⟩
    | fail g => simp [hw] at h
    | ok ws =>
      simp only [hw] at h
      obtain ⟨j, hj, h1⟩ := ih h
      exact ⟨j, by simp [hj], h1⟩

/-- The staged Reading is `field_decode` of each field, in order (spec R92, phase 5). -/
theorem stageFields_eq_ok {s : State} {ks : List Nat} {rs : List Scalar} :
    stageFields s ks = .ok rs ↔ List.Forall₂ (fun k r => fieldDecode s k = .ok r) ks rs := by
  induction ks generalizing rs with
  | nil => simp [stageFields, eq_comm]
  | cons k ks ih =>
    unfold stageFields
    cases hd : fieldDecode s k with
    | fault f => simp [List.forall₂_cons_left_iff, hd]
    | fail f => simp [List.forall₂_cons_left_iff, hd]
    | ok r =>
      cases hs : stageFields s ks with
      | fault f =>
        simp only [List.forall₂_cons_left_iff, hd, ← ih, hs]
        simp
      | fail f =>
        simp only [List.forall₂_cons_left_iff, hd, ← ih, hs]
        simp
      | ok qs =>
        simp only [List.forall₂_cons_left_iff, hd, ← ih, hs]
        simp [eq_comm]

/-- Once phase 4 has passed on legal fields, phase 5 succeeds (spec R92: "succeeds, every check passed"). -/
theorem stageFields_of_checked {s : State} {ks : List Nat} (hl : ∀ k ∈ ks, FieldLegal s k)
    (hc : checkFields s ks = .ok ()) : ∃ rs, stageFields s ks = .ok rs := by
  rw [checkFields_eq_ok] at hc
  induction ks with
  | nil => exact ⟨[], rfl⟩
  | cons k ks ih =>
    obtain ⟨rs, hrs⟩ := ih (fun j hj => hl j (by simp [hj])) fun j hj => hc j (by simp [hj])
    have hk := hc k (by simp)
    exact ⟨_, stageFields_eq_ok.2 (.cons (fieldDecode_eq_ok.2 ⟨hl k (by simp), hk.1, hk.2, rfl⟩)
      (stageFields_eq_ok.1 hrs))⟩

/-- READING succeeds exactly when the table is legal and every word of every field lies in FB and is valid. -/
theorem readingResult_eq_ok {s : State} {rs : List Scalar} :
    readingResult s = .ok rs ↔
      TableLegal s ∧ (∀ k < s.nf.toNat, descEnd (s.descAt k) ≤ s.params.maxFrameBytes ∧ FieldValid s k) ∧
        List.Forall₂ (fun k r => fieldDecode s k = .ok r) s.fields rs := by
  unfold readingResult
  cases hc : readingConfigFailure s with
  | some f =>
    have : ¬ TableLegal s := fun h => by simp [readingConfigFailure_eq_none.2 h] at hc
    simp [this]
  | none =>
    have hl := readingConfigFailure_eq_none.1 hc
    have hmem : ∀ P : Nat → Prop, (∀ k ∈ s.fields, P k) ↔ ∀ k < s.nf.toNat, P k := by simp [State.fields]
    cases hk : checkFields s s.fields with
    | ok u =>
      have hall := (hmem _).1 (checkFields_eq_ok.1 hk)
      simp only [stageFields_eq_ok]
      exact ⟨fun h => ⟨hl, hall, h⟩, fun h => h.2.2⟩
    | fail f =>
      have : ¬ ∀ k < s.nf.toNat, descEnd (s.descAt k) ≤ s.params.maxFrameBytes ∧ FieldValid s k := fun h => by
        simp [checkFields_eq_ok.2 ((hmem _).2 h)] at hk
      simp [this]
    | fault f =>
      have : ¬ ∀ k < s.nf.toNat, descEnd (s.descAt k) ≤ s.params.maxFrameBytes ∧ FieldValid s k := fun h => by
        simp [checkFields_eq_ok.2 ((hmem _).2 h)] at hk
      simp [this]

/-- READING fails with the first configuration error, or on a legal table with the checksum error of a field. -/
theorem readingResult_eq_fail {s : State} {f : Failure} (h : readingResult s = .fail f) :
    readingConfigFailure s = some f ∨ TableLegal s ∧ checkFields s s.fields = .fail f := by
  unfold readingResult at h
  cases hc : readingConfigFailure s with
  | some g => simp only [hc, Attempt.fail.injEq] at h; exact .inl (by rw [h])
  | none =>
    have hl := readingConfigFailure_eq_none.1 hc
    simp only [hc] at h
    cases hk : checkFields s s.fields with
    | fail g => simp only [hk, Attempt.fail.injEq] at h; exact .inr ⟨hl, by rw [h]⟩
    | fault g => simp [hk] at h
    | ok u =>
      obtain ⟨rs, hrs⟩ := stageFields_of_checked (fun k hk' => hl.2.1 k (by simpa [State.fields] using hk')) hk
      simp [hk, hrs] at h

/-- READING faults only where a field of a legal table reaches past the frame buffer. -/
theorem readingResult_eq_fault {s : State} {f : Fault} (h : readingResult s = .fault f) :
    TableLegal s ∧ ∃ k < s.nf.toNat, s.params.maxFrameBytes < descEnd (s.descAt k) := by
  unfold readingResult at h
  cases hc : readingConfigFailure s with
  | some g => simp [hc] at h
  | none =>
    have hl := readingConfigFailure_eq_none.1 hc
    simp only [hc] at h
    refine ⟨hl, ?_⟩
    cases hk : checkFields s s.fields with
    | fail g => simp [hk] at h
    | fault g =>
      obtain ⟨k, hk1, hk2⟩ := checkFields_eq_fault hk
      exact ⟨k, by simpa [State.fields] using hk1, hk2⟩
    | ok u =>
      obtain ⟨rs, hrs⟩ := stageFields_of_checked (fun k hk' => hl.2.1 k (by simpa [State.fields] using hk')) hk
      simp [hk, hrs] at h

/-- Everything READING can answer, in one place (spec R92). -/
theorem execReading_cases (s : State) :
    (∃ f, readingResult s = .fault f ∧ execReading s = .fault f) ∨
    (∃ f, readingResult s = .fail f ∧ execReading s = .next (s.dropReading.raise f)) ∨
    (∃ rs, readingResult s = .ok rs ∧
      execReading s = .next ((s.commitReading s.nf (committedFields s rs)).finishOk true)) := by
  unfold execReading
  cases readingResult s with
  | fault f => exact .inl ⟨f, rfl, rfl⟩
  | fail f => exact .inr (.inl ⟨f, rfl, rfl⟩)
  | ok rs => exact .inr (.inr ⟨rs, rfl, rfl⟩)

end Sys2Proof.Machine
end

