-- ==== Sys2Proof/Laws/Scalar.lean ====
section
/-! SUPPORT. The scalars of the decode modes: FIXED does not overflow, and a legal descriptor decodes to a scalar of a
legal shape. -/

namespace Sys2Proof.Machine

/-- A sixteen-bit field as an integer. -/
theorem toInt_bounds (x : BitVec 16) : -32768 ≤ x.toInt ∧ x.toInt ≤ 32767 := by
  have h1 := BitVec.le_toInt x
  have h2 := BitVec.toInt_lt (x := x)
  norm_num at h1 h2
  omega

/-- The FIXED numerator stays inside 33 bits (spec R86). -/
theorem fixedNum_bound (v : Word) (x y : BitVec 16) : (fixedNum v x.toInt y.toInt).natAbs ≤ 4294901760 := by
  obtain ⟨hx1, hx2⟩ := toInt_bounds x
  obtain ⟨hy1, hy2⟩ := toInt_bounds y
  have hv : (v.toNat : Int) ≤ 65535 := by have := v.isLt; omega
  have hv0 : (0 : Int) ≤ v.toNat := by omega
  have h1 : (v.toNat : Int) * x.toInt ≤ 65535 * 32768 := by nlinarith
  have h2 : -(65535 * 32768) ≤ (v.toNat : Int) * x.toInt := by nlinarith
  unfold fixedNum Config.fixedDivisor
  omega

/-- So the register holds it exactly (spec R86: "No mode wraps, saturates or truncates"). -/
theorem toInt_fixedNum (v : Word) (x y : BitVec 16) :
    (BitVec.ofInt 64 (fixedNum v x.toInt y.toInt)).toInt = fixedNum v x.toInt y.toInt := by
  have := fixedNum_bound v x y
  apply BitVec.toInt_ofInt_eq_self <;> omega

/-- An unsigned word in the 64-bit numerator (spec R87, R90). -/
theorem toInt_setWidth_word (v : Word) : (v.setWidth 64).toInt = (v.toNat : Int) := by
  have := v.isLt
  rw [BitVec.toInt_eq_toNat_of_lt] <;> rw [BitVec.toNat_setWidth] <;> omega

/-- A legal descriptor decodes to a scalar of a legal shape, never to none. -/
theorem decodeScalar_wf {d : Desc} (h : structureFails d = false) (ws : List Word) :
    (decodeScalar d ws).wf ∧ (decodeScalar d ws).kind ≠ .none := by
  obtain ⟨h1 | h1 | h1, -⟩ := structureFails_eq_false.1 h
  · simp [decodeScalar, h1, float32, Scalar.wf]
  · have hb := fixedNum_bound (ws.getD 0 0) (d.extractLsb' 32 16) (d.extractLsb' 48 16)
    simp only [decodeScalar, h1, fixed, Scalar.wf, descScale, descOffs, toInt_fixedNum]
    exact ⟨⟨by simp, by simp, fun _ => ⟨trivial, by decide, hb⟩⟩, by simp⟩
  · have hv := (ws.getD 0 0).isLt
    simp only [decodeScalar, h1.1, idiv, Scalar.wf, toInt_setWidth_word]
    exact ⟨⟨by simp, by simp, fun _ => ⟨trivial, h1.2.2, by omega⟩⟩, by simp⟩

end Sys2Proof.Machine
end

