-- ==== Sys2Proof/Tests/Slice0.lean ====
section
/-! SUPPORT. Tests of the model against words and vectors of the spec (spec/30 for the encodings, spec/95 for the vectors,
named in each comment), the smoke test of WellFormed, and for each statement with hypotheses a state that meets them. -/

namespace Sys2Proof.Tests

open Sys2Proof.Machine

set_option maxRecDepth 20000
set_option Elab.async false

/-- The property of the next state, if there is one. -/
def nextIs (o : Host.Outcome State Fault Refusal) (p : State → Bool) : Bool :=
  match o with
  | .next t => p t
  | .fault _ => false
  | .refused _ => false

/-- A reset block with a frame and a descriptor table loaded. -/
def loaded (frame : List Byte) (table : List Desc) : State :=
  { State.reset with
    fb := frame.zipIdx.foldl (fun m b => m.write b.2 b.1) []
    flen := BitVec.ofNat 8 frame.length
    nf := BitVec.ofNat 8 table.length
    desc := table ++ List.replicate (20 - table.length) 0 }

/-- One step that runs the command word `w` next. -/
def runWord (s : State) (w : Nat) : Host.Outcome State Fault Refusal := step (s.withFetchWord 32 w)

/-! ## Decoding: each constructor from a word written out from spec R51 and R53 -/

theorem test_decode_crc8 : decode 0b0001_0000_00000000_00000001_11111110 = .crc8 1 254 := by decide
theorem test_decode_check : decode 0b0010_0000_00000011_00000001_00000010 = .check 1 2 3 := by decide
theorem test_decode_wenc : decode 0b0011_000000000000_1000000000000001 = .wenc 0x8001 := by decide
theorem test_decode_wdec : decode 0b0100_0000000000000000000000000000 = .wdec := by decide
theorem test_decode_extract : decode 0b0101_00000000000000000000_10000001 = .extract 129 := by decide
theorem test_decode_reading : decode 0b0110_0000000000000000000000000000 = .reading := by decide
theorem test_decode_illegal0 : decode 0b0000_0000000000000000000000000001 = .illegal0 := by decide
theorem test_decode_illegal7 : decode 0b0111_0000000000000000000000000000 = .illegal7 := by decide
theorem test_decode_illegal8 : decode 0b1000_0000000000000000000000000000 = .illegal8 := by decide
theorem test_decode_illegal9 : decode 0b1001_0000000000000000000000000000 = .illegal9 := by decide
theorem test_decode_illegalA : decode 0b1010_0000000000000000000000000000 = .illegalA := by decide
theorem test_decode_illegalB : decode 0b1011_0000000000000000000000000000 = .illegalB := by decide
theorem test_decode_illegalC : decode 0b1100_0000000000000000000000000000 = .illegalC := by decide
theorem test_decode_illegalD : decode 0b1101_0000000000000000000000000000 = .illegalD := by decide
theorem test_decode_illegalE : decode 0b1110_0000000000000000000000000000 = .illegalE := by decide
theorem test_decode_illegalF : decode 0b1111_1111111111111111111111111111 = .illegalF := by decide

/-- Ignored bits set (spec R51): the same command. -/
theorem test_decode_ignored_bits :
    decode 0x1FFFBEEF = .crc8 0xBE 0xEF ∧ decode 0x3FFF0001 = .wenc 1 ∧ decode 0x5FFFFF07 = .extract 7 := by decide

/-- A string of bits longer than a command is rejected by name (spec R50). -/
theorem test_decode_too_long :
    decodeTableWord 64 0x40000000 = none ∧ decodeBits 64 0x40000000 = .error (.longerThanACommand 64) := by
  exact ⟨by decide, rfl⟩

/-! ## WellFormed: one ill-formed line for each range of spec R61 -/

theorem test_wf_crc8_a : (AsmCommand.crc8 256 0).wellFormed = false := by decide
theorem test_wf_crc8_b : (AsmCommand.crc8 0 256).wellFormed = false := by decide
theorem test_wf_check_a : (AsmCommand.check 256 0 0).wellFormed = false := by decide
theorem test_wf_check_b : (AsmCommand.check 0 256 0).wellFormed = false := by decide
theorem test_wf_check_c : (AsmCommand.check 0 0 256).wellFormed = false := by decide
theorem test_wf_wenc : (AsmCommand.wenc 65536).wellFormed = false := by decide
theorem test_wf_extract : (AsmCommand.extract 256).assemble = none := by decide
theorem test_wf_crc8w : (AsmCommand.crc8w 65536).wellFormed = false := by decide
theorem test_wf_checkw_v : (AsmCommand.checkw 65536 0).wellFormed = false := by decide
theorem test_wf_checkw_c : (AsmCommand.checkw 0 256).wellFormed = false := by decide

/-! ## Commands, one step each, from spec/95 -/

/-- Vector C2: the C field is ignored. -/
theorem test_crc8 : nextIs (runWord State.reset 0x10FFBEEF) (fun t => t.crcOut == 0x92 && t.statusWord == 0x10) = true := by
  decide

/-- The order of the bytes matters (spec/95 section 2). -/
theorem test_crc8_order : crc8 0x00 0x01 = 0xB0 ∧ crc8 0x01 0x00 = 0x75 := by decide

/-- Vector C4: a mismatch clears VALID and is no error. -/
theorem test_check_mismatch :
    nextIs (runWord State.reset 0x2093BEEF) (fun t => t.crcOut == 0x92 && t.statusWord == 0) = true := by decide

/-- Vector C6. -/
theorem test_check_match :
    nextIs (runWord State.reset 0x20810000) (fun t => t.crcOut == 0x81 && t.statusWord == 0x10) = true := by decide

/-- Spec/95 section 3, WENC 0x01F4. -/
theorem test_wenc :
    nextIs (runWord State.reset 0x300001F4) (fun t => t.encOut == 0x01F433 && t.crcOut == 0x33) = true := by decide

/-- Vector D3: an invalid word is no error. -/
theorem test_wdec_invalid_word :
    nextIs (runWord (loaded [0xBE, 0xEF, 0x92, 0, 0, 0] []) 0x40000000) (fun t => t.nw == 2 && t.statusWord == 0 &&
      t.wval.take 2 == [0xBEEF, 0] && t.wok.take 2 == [true, false]) = true := by decide

/-- Vector D4: the words of an older frame are cleared. -/
theorem test_wdec_frame_length :
    nextIs (runWord { loaded [1, 2, 3, 4] [] with nw := 6, wval := List.replicate 20 0x1234 } 0x40000000)
      (fun t => t.nw == 0 && t.statusWord == 1 && t.wval.getD 5 7 == 0) = true := by decide

/-- Vector E14: FIXED at its lower bound. -/
theorem test_extract_fixed_bound :
    nextIs (runWord (loaded [0xFF, 0xFF, 0xAC] [0x8000800000030500]) 0x50000000) (fun t =>
      decide (t.single.num.toInt = -4294901760) && t.single.den == 65535 && t.single.tag == 3) = true := by decide

/-- Vector E11: the second word of a FLOAT32 field is bad. -/
theorem test_extract_checksum :
    nextIs (runWord { loaded [0x43, 0x48, 0xA1, 0, 0, 0x80] [0x100200] with single := ⟨.rational, 0, 1, 1, 1⟩ } 0x50000000)
      (fun t => t.statusWord == 0x00100002 && t.single == Scalar.empty) = true := by decide

/-- The descriptors T and H of spec/95 section 5. -/
def descT : Desc := 0xFFD300AF00010500

/-- See `descT`. -/
def descH : Desc := 0x0000006400020503

/-- Vector G1's block. -/
def good : State := loaded [0x66, 0x66, 0x93, 0x80, 0x00, 0xA2] [descT, descH]

/-- Vector G1. -/
theorem test_reading_commits :
    nextIs (runWord good 0x60000000) (fun t => t.statusWord == 0x30 && t.rnf == 2 &&
      decide ((t.rdAt 0).num.toInt = 1638375) && decide ((t.rdAt 1).num.toInt = 3276800) && (t.rdAt 1).tag == 2) = true := by
  decide

/-- Vector G4: the range error of field 1 comes before the checksum error of field 0. -/
theorem test_reading_order :
    nextIs (runWord (loaded [0x66, 0x66, 0x00, 0x80, 0x00, 0xA2] [descT, 0x0000006400020506]) 0x60000000)
      (fun t => t.statusWord == 0x00020105 && t.rvalid == false && t.rd == State.reset.rd) = true := by decide

/-- Spec/95 section 6: an illegal word leaves CRC_OUT, and STATUS still shows RVALID. -/
theorem test_illegal :
    nextIs (runWord { State.reset with crcOut := 0x55, rvalid := true } 0x70000000)
      (fun t => t.statusWord == 0x23 && t.crcOut == 0x55) = true := by decide

/-- Spec R103: the all-zero word is illegal. -/
theorem test_illegal_zero : nextIs (runWord State.reset 0) (fun t => t.statusWord == 3) = true := by decide

/-! ## The host port, from spec/95 section 7 -/

/-- H4 and H5: FLEN ignores 61 and keeps the low 8 bits of 0x13C. -/
theorem test_host_flen :
    nextIs (perform good (.write 0x009 61)) (fun t => t.flen == 6) = true ∧
    nextIs (perform good (.write 0x009 0x13C)) (fun t => t.flen == 60) = true := by decide

/-- H8: FB keeps the low 8 bits. -/
theorem test_host_fb : nextIs (perform State.reset (.write 0x102 0x1AB)) (fun t => t.fb.read 2 == 0xAB) = true := by decide

/-- H3 and H7: a read-only register ignores a write, and an unmapped index reads 0. -/
theorem test_host_ignored :
    nextIs (perform good (.write 0x001 5)) (fun t => t == good) = true ∧ hostRead good 0x0FFF = 0 := by decide

/-- Spec R83, R84, S5: 0x43480000 stands for 200.0 = 13107200 * 2^(-16). -/
theorem test_binary32 : binary32 0x43480000 = .finite false 13107200 (-16) ∧ binary32 0x7FC00001 = .nan true := by decide

/-- The `desc` directive of program P1 (spec/95 section 8). -/
theorem test_desc_directive :
    ({ off := 0, wcnt := 1, mode := 1, tag := 1, scaleOrDiv := 175, offs := -45 } : DescLine).word = descT := by decide

/-! ## Witnesses: a state and operands that meet the hypotheses of each statement that has any -/

/-- The block of program P2 after its retry, cut to one FLOAT32 field. -/
def floatBlock : State := loaded [0x43, 0x48, 0xA1, 0x00, 0x00, 0x81] [0x0000000000100200]

/-- Vector E19's block: one IDIV field. -/
def idivBlock : State := loaded [0x00, 0xFA, 0xD8] [0x0000000A00060900]

/-- Vector G5's block: the one group of descriptor 1 is invalid. -/
def corrupt : State := loaded [0x66, 0x66, 0x93, 0x80, 0x00, 0x00] [descT, descH]

/-- Vector G8's frame: a length of 4. -/
def oddFrame : State := loaded [0x00, 0x01, 0xB0, 0x00] [0x0000000A00060900]

/-- Vector G2's block: descriptor 1 overlaps descriptor 0. -/
def overlapping : State := loaded [0x66, 0x66, 0x93, 0x80, 0x00, 0xA2] [descT, 0x0000006400020500]

/-- Vector G3's block: the table does not cover the frame. -/
def uncovered : State := loaded [0x66, 0x66, 0x93, 0x80, 0x00, 0xA2] [descT]

/-- Vector G11's block: descriptor 1 has the reserved mode. -/
def malformed : State := loaded [0x66, 0x66, 0x00, 0x80, 0x00, 0xA2] [descT, 0x0000000000020D03]

/-- Vector G4's block: descriptor 1 reaches past the frame. -/
def tooLong : State := loaded [0x66, 0x66, 0x00, 0x80, 0x00, 0xA2] [descT, 0x0000006400020506]

theorem good_inv : good.Inv := by
  constructor <;> decide

theorem corrupt_inv : corrupt.Inv := by
  constructor <;> decide

theorem good_legal : TableLegal good := by
  unfold TableLegal LayoutLegal FieldLegal
  decide

theorem good_valid : ∀ k < good.nf.toNat, FieldValid good k := by
  unfold FieldValid
  decide

theorem corrupt_legal : TableLegal corrupt := by
  unfold TableLegal LayoutLegal FieldLegal
  decide

theorem witness_DecodeInvertsEncode : (Instr.check 255 0 255).wellFormed = true := by decide

theorem witness_EveryWordSelectsOneOpcodeRow :
    ∃ r ∈ opcodeTable, r.selects 0xFFFFFFFF = true := ⟨⟨"ILLEGAL", 0xF0000000, 0xF0000000⟩, by decide, by decide +kernel⟩

theorem witness_StepRunsTheIssuedCommand :
    (good.setInbox [.write 0x000 0x60000000, .reset]).inbox = .write 0x000 0x60000000 :: [.reset] ∧
    decode ((0x60000000 : HostWord).extractLsb' 0 32) = .reading := by decide

theorem witness_PlacedWordIsDecodedAndRun : decodeTableWord 32 0x50000001 = some (.extract 1) := by decide

theorem witness_StepTakesTheOldestAccess_idle : good.inbox = [] := by decide

theorem witness_StepTakesTheOldestAccess_busy :
    (good.setInbox [.read 0x001, .reset]).inbox = .read 0x001 :: [.reset] ∧
    ∃ t, step (good.setInbox [.read 0x001, .reset]) = .next t := ⟨by decide, _, rfl⟩

theorem witness_RegisterMapIsOneToOne_register :
    Params.default.legal ∧ (Reg.fb 59).mapped Params.default = true ∧ (Reg.rdTag 19).mapped Params.default = true := by decide

theorem witness_RegisterMapIsOneToOne_index : regAt Params.default 0x513 = some (.rdTag 19) := by decide

theorem witness_OnlyCommandWritesHaveSideEffects : good.Inv ∧ (0x13B : RegIndex) ≠ Reg.cmd.port := ⟨good_inv, by decide⟩

theorem witness_UnmappedAndReadOnlyAccessesAreHarmless_unmapped : regAt good.params 0x13C = none := by decide

theorem witness_UnmappedAndReadOnlyAccessesAreHarmless_readOnly :
    regAt good.params 0x00D = some .rnf ∧ Reg.rnf.access = .readOnly := by decide

theorem witness_HostAccessesMoveWholeRegisters_read :
    good.params.legal ∧ (Reg.wok 19).mapped good.params = true := by decide

theorem witness_HostAccessesMoveWholeRegisters_flen :
    good.Inv ∧ Reg.flen.mapped good.params = true ∧ Reg.flen.access = .readWrite ∧
    (0x13C : HostWord).toNat % 256 ≤ good.params.maxFrameBytes := ⟨good_inv, by decide⟩

theorem witness_HostAccessesMoveWholeRegisters_nf :
    good.Inv ∧ Reg.nf.mapped good.params = true ∧ Reg.nf.access = .readWrite ∧
    (20 : HostWord).toNat % 256 ≤ good.params.maxFields := ⟨good_inv, by decide⟩

theorem witness_HostAccessesMoveWholeRegisters_array :
    good.Inv ∧ (Reg.fb 59).mapped good.params = true ∧ (Reg.fb 59).access = .readWrite ∧
    (Reg.desc 19).mapped good.params = true ∧ (Reg.desc 19).access = .readWrite := ⟨good_inv, by decide⟩

/-- For the statements about a next state of any command (FlenKeepsLegalValues, CommandsWriteOnlyTheirFootprint,
EveryCommandEndsInOneStatusWrite, FlagsAreWrittenOnlyByCommands, BytesAboveFlenAreNeverRead, ErrorsHaveTheirCauses). -/
theorem witness_commands_reach_a_next_state :
    nextIs (exec .reading good) (fun t => t.rvalid) = true ∧ nextIs (exec .wdec good) (fun t => t.nw == 2) = true ∧
    nextIs (exec (.extract 1) good) (fun t => t.single.tag == 2) = true ∧
    nextIs (exec (.crc8 0 0) good) (fun t => t.crcOut == 0x81) = true := by decide

theorem witness_FlagsAreWrittenOnlyByCommands_write :
    (0x100 : RegIndex) ≠ Reg.cmd.port ∧ nextIs (perform good (.write 0x100 7)) (fun t => t.fb.read 0 == 7) = true := by decide

/-- FLEN and NF at their limits, both clauses of the write rule. -/
theorem witness_FlenKeepsLegalValues_limits :
    ¬ good.params.maxFrameBytes < (60 : HostWord).toNat % 256 ∧ good.params.maxFrameBytes < (61 : HostWord).toNat % 256 ∧
    ¬ good.params.maxFields < (20 : HostWord).toNat % 256 ∧ good.params.maxFields < (21 : HostWord).toNat % 256 := by decide

theorem witness_DescriptorTableIsTheHosts : good.Inv ∧ 19 < good.params.maxFields := ⟨good_inv, by decide⟩

theorem witness_FrameByteWrite : good.Inv ∧ 59 < good.params.maxFrameBytes := ⟨good_inv, by decide⟩

theorem witness_FrameDirectiveLoadsTheFrame :
    good.Inv ∧ (List.replicate 60 (0xFF : Byte)).length ≤ good.params.maxFrameBytes := ⟨good_inv, by decide⟩

theorem witness_ChecksumDetectsSmallChanges :
    [0, 11, 23].Pairwise (· < ·) ∧ (∀ p ∈ [0, 11, 23], p < 24) ∧ [0, 11, 23].length ≤ 3 ∧ (0x80 : Byte) ≠ 0 := by decide

theorem witness_Crc8Command : (0x1FFFBEEF : Command).extractLsb' 28 4 = 0x1 := by decide

theorem witness_CheckCommand : (0x2FFFBEEF : Command).extractLsb' 28 4 = 0x2 := by decide

theorem witness_WencCommand : (0x3FFFBEEF : Command).extractLsb' 28 4 = 0x3 := by decide

theorem witness_WdecCommand_encoding : (0x4FFFBEEF : Command).extractLsb' 28 4 = 0x4 := by decide

theorem witness_WdecCommand_error : oddFrame.flen.toNat % 3 ≠ 0 := by decide

theorem witness_WdecCommand_ok :
    good.flen.toNat % 3 = 0 ∧ good.flen.toNat ≤ good.params.maxFrameBytes ∧ 1 < good.flen.toNat / 3 := by decide

theorem witness_WencWdecRoundTrip : good.Inv ∧ 3 ≤ good.params.maxFrameBytes := ⟨good_inv, by decide⟩

theorem witness_WdecAgreesWithCheck :
    good.flen.toNat ≤ good.params.maxFrameBytes ∧ nextIs (exec .wdec good) (fun t => t.nw == 2) = true := by decide

theorem witness_FrameCheckComesFirst : oddFrame.flen.toNat % 3 ≠ 0 := by decide

theorem witness_StructureCheckOfADescriptor :
    malformed.flen.toNat % 3 = 0 ∧ (1 : Byte).toNat < malformed.nf.toNat ∧
    structureFails (malformed.descAt 1) = true ∧ ∀ j < 1, FieldLegal malformed j := by
  unfold FieldLegal
  decide

theorem witness_RangeCheckOfADescriptor :
    tooLong.flen.toNat % 3 = 0 ∧ (1 : Byte).toNat < tooLong.nf.toNat ∧ structureFails (tooLong.descAt 1) = false ∧
    tooLong.flen.toNat < ((tooLong.descAt 1).extractLsb' 0 8).toNat + 3 * ((tooLong.descAt 1).extractLsb' 8 2).toNat ∧
    ∀ j < 1, FieldLegal tooLong j := by
  unfold FieldLegal
  decide

theorem witness_RangeCheckOfADescriptor_passes :
    good.flen.toNat ≤ good.params.maxFrameBytes ∧ FieldLegal good 1 := by
  unfold FieldLegal
  decide

theorem witness_ChecksumCheckOfADescriptor :
    corrupt.flen.toNat % 3 = 0 ∧ corrupt.flen.toNat ≤ corrupt.params.maxFrameBytes ∧ (1 : Byte).toNat < corrupt.nf.toNat ∧
    FieldLegal corrupt 1 ∧ ¬ FieldValid corrupt 1 ∧ TableLegal corrupt ∧ ∀ j < 1, FieldValid corrupt j := by
  refine ⟨by decide, by decide +kernel, by decide +kernel, corrupt_legal.2.1 1 (by decide +kernel), ?_, corrupt_legal, ?_⟩ <;> unfold FieldValid <;>
    decide

theorem witness_FieldDecodeFollowsItsPseudocode : good.flen.toNat ≤ good.params.maxFrameBytes := by decide

theorem witness_ExtractCommand_encoding : (0x5FFFFFFF : Command).extractLsb' 28 4 = 0x5 := by decide

theorem witness_ExtractCommand_frame : oddFrame.flen.toNat % 3 ≠ 0 := by decide

theorem witness_ExtractCommand_index :
    good.flen.toNat % 3 = 0 ∧ good.nf.toNat ≤ (2 : Byte).toNat ∧ (1 : Byte).toNat < good.nf.toNat := by decide

theorem witness_ExtractCommand_fail :
    corrupt.flen.toNat % 3 = 0 ∧ (1 : Byte).toNat < corrupt.nf.toNat ∧ fieldDecode corrupt 1 = .fail ⟨.checksum, 1, 2⟩ := by
  decide

theorem witness_ExtractCommand_ok :
    good.flen.toNat % 3 = 0 ∧ (1 : Byte).toNat < good.nf.toNat ∧
    fieldDecode good 1 = .ok ⟨.rational, 0, 3276800, 65535, 2⟩ := by decide

theorem witness_ExtractAgreesWithWdec :
    good.flen.toNat % 3 = 0 ∧ good.flen.toNat ≤ good.params.maxFrameBytes ∧ (1 : Byte).toNat < good.nf.toNat ∧
    FieldLegal good 1 := ⟨by decide, by decide +kernel, by decide +kernel, good_legal.2.1 1 (by decide +kernel)⟩

theorem witness_Float32DeliversTheBits :
    floatBlock.flen.toNat % 3 = 0 ∧ floatBlock.flen.toNat ≤ floatBlock.params.maxFrameBytes ∧
    (0 : Byte).toNat < floatBlock.nf.toNat ∧ FieldLegal floatBlock 0 ∧ FieldValid floatBlock 0 ∧
    (floatBlock.descAt 0).extractLsb' 10 2 = 0 := by
  unfold FieldLegal FieldValid
  decide

theorem witness_FixedDeliversTheExactRational :
    good.flen.toNat % 3 = 0 ∧ good.flen.toNat ≤ good.params.maxFrameBytes ∧ (0 : Byte).toNat < good.nf.toNat ∧
    FieldLegal good 0 ∧ FieldValid good 0 ∧ (good.descAt 0).extractLsb' 10 2 = 1 :=
  ⟨by decide, by decide +kernel, by decide +kernel, good_legal.2.1 0 (by decide +kernel), good_valid 0 (by decide +kernel), by decide +kernel⟩

theorem witness_IdivDeliversTheExactQuotient :
    idivBlock.flen.toNat % 3 = 0 ∧ idivBlock.flen.toNat ≤ idivBlock.params.maxFrameBytes ∧
    (0 : Byte).toNat < idivBlock.nf.toNat ∧ FieldLegal idivBlock 0 ∧ FieldValid idivBlock 0 ∧
    (idivBlock.descAt 0).extractLsb' 10 2 = 2 := by
  unfold FieldLegal FieldValid
  decide

theorem witness_RationalResultsCompareByCrossProducts :
    (idiv 250 10 6).kind = .rational ∧ (idiv 5000 200 7).kind = .rational ∧ (idiv 250 10 6).den ≠ 0 ∧
    (idiv 5000 200 7).den ≠ 0 := by decide

theorem witness_IdivIsAFixedPointScaleOnlyAsARational : (200 : BitVec 16) ≠ 0 := by decide

/-- Vector E22's descriptor has every bit set that IDIV ignores, beside E19's. -/
theorem witness_UnusedDescriptorBitsHaveNoEffect :
    good.Inv ∧ 19 < good.params.maxFields ∧ SameUsedBits (0x0000000A00060900 : Desc) 0x1234000AAB06F900 := by
  refine ⟨good_inv, by decide, ?_⟩
  unfold SameUsedBits
  decide

theorem witness_UnusedDescriptorBitsHaveNoEffect_table :
    ∀ k, SameUsedBits (idivBlock.descAt k)
      ((0x1234000AAB06F900 :: List.replicate 19 0 : List Desc).getD k 0) := by
  intro k
  rcases k with _ | k
  · unfold SameUsedBits; decide
  · have h : idivBlock.descAt (k + 1) = (0x1234000AAB06F900 :: List.replicate 19 0 : List Desc).getD (k + 1) 0 := rfl
    rw [h]
    exact ⟨rfl, rfl, fun _ => rfl, fun _ => rfl⟩

theorem witness_ReadingCommand_encoding : (0x6FFFFFFF : Command).extractLsb' 28 4 = 0x6 := by decide

theorem witness_ReadingCommand_commits :
    good.Inv ∧ TableLegal good ∧ ∀ k < good.nf.toNat, FieldValid good k := ⟨good_inv, good_legal, good_valid⟩

theorem witness_ReadingCommand_fails :
    corrupt.Inv ∧ ¬ (TableLegal corrupt ∧ ∀ k < corrupt.nf.toNat, FieldValid corrupt k) := by
  refine ⟨corrupt_inv, fun h => absurd (h.2 1 (by decide)) ?_⟩
  unfold FieldValid
  decide

theorem witness_ReadingCommand_empty :
    State.reset.nf = 0 ∧ State.reset.flen.toNat % 3 = 0 ∧ State.reset.flen = 0 ∧
    (loaded [0, 1, 0xB0] []).nf = 0 ∧ (loaded [0, 1, 0xB0] []).flen.toNat % 3 = 0 ∧ (loaded [0, 1, 0xB0] []).flen ≠ 0 := by
  decide

theorem witness_ReadingReportsTheFirstFailure_frame :
    oddFrame.flen.toNat ≤ oddFrame.params.maxFrameBytes ∧ oddFrame.flen.toNat % 3 ≠ 0 := by decide

theorem witness_ReadingReportsTheFirstFailure_structure :
    malformed.flen.toNat ≤ malformed.params.maxFrameBytes ∧ malformed.flen.toNat % 3 = 0 ∧ 1 < malformed.nf.toNat ∧
    (∀ j < 1, FieldLegal malformed j) ∧ ¬ FieldLegal malformed 1 := by
  unfold FieldLegal
  decide

theorem witness_ReadingReportsTheFirstFailure_overlap :
    overlapping.flen.toNat ≤ overlapping.params.maxFrameBytes ∧ overlapping.flen.toNat % 3 = 0 ∧
    (∀ j < overlapping.nf.toNat, FieldLegal overlapping j) ∧ 1 < overlapping.nf.toNat ∧
    (∀ i < 1, ∀ j < i, overlaps (overlapping.descAt i) (overlapping.descAt j) = false) ∧
    ∃ j < 1, overlaps (overlapping.descAt 1) (overlapping.descAt j) = true := by
  unfold FieldLegal
  decide

theorem witness_ReadingReportsTheFirstFailure_coverage :
    uncovered.flen.toNat ≤ uncovered.params.maxFrameBytes ∧ uncovered.flen.toNat % 3 = 0 ∧
    (∀ j < uncovered.nf.toNat, FieldLegal uncovered j) ∧
    (∀ i < uncovered.nf.toNat, ∀ j < i, overlaps (uncovered.descAt i) (uncovered.descAt j) = false) ∧
    uncovered.totalSpan ≠ uncovered.flen.toNat := by
  unfold FieldLegal
  decide

theorem witness_ReadingReportsTheFirstFailure_checksum :
    corrupt.flen.toNat ≤ corrupt.params.maxFrameBytes ∧ TableLegal corrupt ∧ 1 < corrupt.nf.toNat ∧
    (∀ j < 1, FieldValid corrupt j) ∧ ¬ FieldValid corrupt 1 := by
  refine ⟨by decide, corrupt_legal, by decide +kernel, ?_, ?_⟩ <;> unfold FieldValid <;> decide +kernel

theorem witness_LegalLayoutTilesTheFrame :
    TableLegal good ∧ 5 < good.flen.toNat ∧ FieldLegal good 0 ∧ FieldLegal good 1 ∧
    [descT].getD (0 : Byte).toNat 0 = good.descAt (0 : Byte).toNat :=
  ⟨good_legal, by decide, good_legal.2.1 0 (by decide +kernel), good_legal.2.1 1 (by decide +kernel), by decide +kernel⟩

theorem witness_NoPartialReading :
    corrupt.Inv ∧ TableLegal corrupt ∧ (1 : Byte).toNat < corrupt.nf.toNat ∧ 0 < descWcnt (corrupt.descAt 1) ∧
    (fieldGroup corrupt 1 0).ok = false ∧
    ∀ k < corrupt.nf.toNat, ∀ j < descWcnt (corrupt.descAt k), (k, j) ≠ (1, 0) → (fieldGroup corrupt k j).ok = true :=
  ⟨corrupt_inv, corrupt_legal, by decide, by decide +kernel, by decide +kernel, by decide +kernel⟩

theorem witness_ReadingAgreesWithExtract :
    good.Inv ∧ nextIs (exec .reading good) (fun t => t.rvalid) = true ∧ (1 : Byte).toNat < good.nf.toNat :=
  ⟨good_inv, by decide, by decide +kernel⟩

theorem witness_IllegalCommandWords :
    Instr.illegalF ∈ [Instr.illegal0, .illegal7, .illegal8, .illegal9, .illegalA, .illegalB, .illegalC, .illegalD,
      .illegalE, .illegalF] ∧ ((0x00000001 : Command).extractLsb' 28 4).toNat = 0 ∧
    7 ≤ ((0x70000000 : Command).extractLsb' 28 4).toNat := by decide

/-- One state for each error of spec R101: vectors D4, G5, spec/95 section 6, G3, E3, G2, G4. -/
theorem witness_ErrorsHaveTheirCauses :
    nextIs (exec .wdec oddFrame) (fun t => t.status.err == .frameLength) = true ∧
    nextIs (exec .reading corrupt) (fun t => t.status.err == .checksum) = true ∧
    nextIs (exec .illegal0 good) (fun t => t.status.err == .unknownOperation) = true ∧
    nextIs (exec .reading uncovered) (fun t => t.status.err == .descriptor) = true ∧
    nextIs (exec (.extract 2) good) (fun t => t.status.err == .descriptor) = true ∧
    nextIs (exec .reading overlapping) (fun t => t.status.err == .descriptor) = true ∧
    nextIs (exec .reading tooLong) (fun t => t.status.err == .fieldRange) = true := by decide

/-- See `witness_ErrorsHaveTheirCauses`: each command that can fail, failing. -/
theorem witness_FailingCommandsArePrecise :
    nextIs (exec .wdec oddFrame) (fun t => t.status.err != .ok) = true ∧
    nextIs (exec (.extract 1) corrupt) (fun t => t.status.err != .ok) = true ∧
    nextIs (exec .reading corrupt) (fun t => t.status.err != .ok) = true := by decide

theorem witness_ErrorsAreNotLatched : good.Inv := good_inv

/-- A frame buffer that differs from `good`'s above FLEN only. -/
theorem witness_BytesAboveFlenAreNeverRead :
    (∀ a < good.flen.toNat, (good.fb.write 6 0xFF).read a = good.fb.read a) ∧ good.fb.write 6 0xFF ≠ good.fb := by decide

theorem witness_ResetMeetsTheInvariant : Params.default.legal ∧ (⟨255, 64⟩ : Params).legal := by decide

theorem witness_StepKeepsTheInvariant :
    (good.issueCommand 0x60000000).Inv ∧
    nextIs (step (good.issueCommand 0x60000000)) (fun t => t.rvalid) = true :=
  ⟨{ good_inv with }, by decide⟩

theorem witness_StepNeverStops : good.Inv := good_inv

end Sys2Proof.Tests
end

section
/-! PROOF. The state invariant of the block: it holds after reset and every step keeps it. One lemma per update of
Ops.lean says what that update needs to keep it; the commands cite these lemmas and the laws of their checks. -/

namespace Sys2Proof.Machine

/-! ## The errors a command raises leave STATUS well formed -/

/-- An error that STATUS may record (spec R101): only one that names a field carries an index or a TAG. -/
abbrev Failure.wf (f : Failure) : Prop :=
  f.err = .ok ∨ f.err = .frameLength ∨ f.err = .unknownOperation → f.k = 0 ∧ f.tag = 0

theorem frameFailure_wf {s : State} {f : Failure} (h : frameFailure s = some f) : f.wf := by
  obtain ⟨-, rfl⟩ := frameFailure_eq_some.1 h
  exact fun _ => ⟨rfl, rfl⟩

theorem configFailure_wf {s : State} {k : Nat} {f : Failure} (h : configFailure s k = some f) : f.wf := by
  obtain ⟨-, rfl⟩ | ⟨-, -, rfl⟩ := configFailure_eq_some.1 h <;> simp [Failure.wf, fieldFailure]

theorem overlapFailure_wf {s : State} {k : Nat} {f : Failure} (h : overlapFailure s k = some f) : f.wf := by
  obtain ⟨-, rfl⟩ := overlapFailure_eq_some.1 h
  simp [Failure.wf, fieldFailure]

theorem coverageFailure_wf {s : State} {f : Failure} (h : coverageFailure s = some f) : f.wf := by
  obtain ⟨-, rfl⟩ := coverageFailure_eq_some.1 h
  simp [Failure.wf]

theorem fieldDecode_fail_wf {s : State} {k : Nat} {f : Failure} (h : fieldDecode s k = .fail f) : f.wf := by
  obtain hc | ⟨-, -, -, rfl⟩ := fieldDecode_eq_fail.1 h
  · exact configFailure_wf hc
  · simp [Failure.wf, fieldFailure]

/-- EXTRACT succeeds exactly when the frame, the index and the field pass (spec R80). -/
theorem extractResult_eq_ok {k : Byte} {s : State} {r : Scalar} :
    extractResult k s = .ok r ↔
      s.flen.toNat % 3 = 0 ∧ k.toNat < s.nf.toNat ∧ fieldDecode s k.toNat = .ok r := by
  unfold extractResult
  cases hf : frameFailure s with
  | some f => simp [(frameFailure_eq_some.1 hf).1]
  | none =>
    by_cases hk : s.nf.toNat ≤ k.toNat
    · simp [hk]
    · simp [hk, frameFailure_eq_none.1 hf, Nat.lt_of_not_le hk]

/-- EXTRACT fails with the frame's error, else the index's, else the field's (spec R80, R105). -/
theorem extractResult_eq_fail {k : Byte} {s : State} {f : Failure} :
    extractResult k s = .fail f ↔
      frameFailure s = some f ∨
      s.flen.toNat % 3 = 0 ∧ s.nf.toNat ≤ k.toNat ∧ f = ⟨.descriptor, k, 0⟩ ∨
      s.flen.toNat % 3 = 0 ∧ k.toNat < s.nf.toNat ∧ fieldDecode s k.toNat = .fail f := by
  unfold extractResult
  cases hf : frameFailure s with
  | some g => simp [(frameFailure_eq_some.1 hf).1]
  | none =>
    by_cases hk : s.nf.toNat ≤ k.toNat
    · simp [hk, frameFailure_eq_none.1 hf, eq_comm]
    · simp [hk, frameFailure_eq_none.1 hf, Nat.lt_of_not_le hk]

theorem extractResult_fail_wf {k : Byte} {s : State} {f : Failure} (h : extractResult k s = .fail f) : f.wf := by
  obtain hf | ⟨-, -, rfl⟩ | ⟨-, -, hd⟩ := extractResult_eq_fail.1 h
  · exact frameFailure_wf hf
  · simp [Failure.wf]
  · exact fieldDecode_fail_wf hd

/-- The first configuration error of READING is one of the four checks' (spec R93, items 1 to 3). -/
theorem readingConfigFailure_cases {s : State} {f : Failure} (h : readingConfigFailure s = some f) :
    frameFailure s = some f ∨ (∃ k ∈ s.fields, configFailure s k = some f) ∨
    (∃ k ∈ s.fields, overlapFailure s k = some f) ∨ coverageFailure s = some f := by
  simp only [readingConfigFailure, Option.or_eq_some_iff] at h
  obtain hf | ⟨-, hc | ⟨-, ho | ⟨-, hv⟩⟩⟩ := h
  · exact .inl hf
  · exact .inr (.inl (List.exists_of_findSome?_eq_some hc))
  · exact .inr (.inr (.inl (List.exists_of_findSome?_eq_some ho)))
  · exact .inr (.inr (.inr hv))

theorem readingResult_fail_wf {s : State} {f : Failure} (h : readingResult s = .fail f) : f.wf := by
  obtain hc | ⟨-, hk⟩ := readingResult_eq_fail h
  · obtain hf | ⟨k, -, hc⟩ | ⟨k, -, ho⟩ | hv := readingConfigFailure_cases hc
    · exact frameFailure_wf hf
    · exact configFailure_wf hc
    · exact overlapFailure_wf ho
    · exact coverageFailure_wf hv
  · obtain ⟨-, k, -, -, -, -, rfl⟩ := checkFields_eq_fail hk
    simp [Failure.wf, fieldFailure]

/-! ## The scalars and words a command stores -/

theorem Scalar.wf_empty : Scalar.empty.wf := by decide

theorem fieldDecode_ok_wf {s : State} {k : Nat} {r : Scalar} (h : fieldDecode s k = .ok r) :
    r.wf ∧ r.kind ≠ .none := by
  obtain ⟨⟨hstruct, -⟩, -, -, rfl⟩ := fieldDecode_eq_ok.1 h
  exact decodeScalar_wf hstruct _

/-- Element `k` of the staged Reading is `field_decode(k)` (spec R92, phase 5). -/
theorem fieldDecode_of_readingResult {s : State} {rs : List Scalar} (h : readingResult s = .ok rs) {k : Nat}
    (hk : k < s.nf.toNat) : fieldDecode s k = .ok (rs.getD k Scalar.empty) := by
  obtain ⟨-, -, hall⟩ := readingResult_eq_ok.1 h
  have hlen : k < rs.length := by simpa [← hall.length_eq, State.fields] using hk
  have hget := hall.get (by simpa [State.fields] using hk) hlen
  simpa [State.fields, hlen] using hget

@[simp] theorem committedFields_length (s : State) (stage : List Scalar) :
    (committedFields s stage).length = s.params.maxFields := by
  simp [committedFields]

/-- A committed element: the staged scalar below NF, none above (spec R92). -/
theorem committedFields_getD {s : State} {k : Nat} (hk : k < s.params.maxFields) (stage : List Scalar) :
    (committedFields s stage).getD k Scalar.empty =
      if k < s.nf.toNat then stage.getD k Scalar.empty else Scalar.empty := by
  simp [committedFields, hk]

theorem committedFields_wf {s : State} {rs : List Scalar} (h : readingResult s = .ok rs) :
    ∀ r ∈ committedFields s rs, r.wf := by
  intro r hr
  obtain ⟨k, -, rfl⟩ := List.mem_map.1 hr
  split
  · next hk => exact (fieldDecode_ok_wf (fieldDecode_of_readingResult h hk)).1
  · exact Scalar.wf_empty

/-- A frame inside FB has at most MAX_WORDS words, so NW holds their number (spec R24, R71). -/
theorem toNat_frameWords {s : State} (h : s.Inv) :
    (BitVec.ofNat 8 s.frameWords).toNat = s.frameWords ∧ s.frameWords ≤ s.params.maxWords := by
  have hflen := h.flen_le
  have hlt := s.flen.isLt
  simp only [State.frameWords, Params.maxWords, BitVec.toNat_ofNat]
  omega

/-! ## What each update needs to keep the invariant -/

namespace State.Inv

/-- The invariant after reset (spec R111). -/
theorem resetWith {p : Params} (hp : p.legal) : (State.resetWith p).Inv where
  params_legal := hp
  fb_wf := Memory.wf_nil
  fb_bound := by simp
  flen_le := by simp
  nf_le := by simp
  nw_le := by simp
  rnf_le := by simp
  wval_length := by simp
  wok_length := by simp
  desc_length := by simp
  rd_length := by simp
  status_wf := by simp [Status.wf]
  single_wf := Scalar.wf_empty
  rd_wf := fun _ hr => List.eq_of_mem_replicate hr ▸ Scalar.wf_empty
  words_clear := fun j _ _ => by simp
  rd_filled := by simp
  rd_clear := fun k _ _ => by simp [State.rdAt]

variable {s : State}

theorem setInbox (h : s.Inv) (es : List HostEvent) : (s.setInbox es).Inv := { h with }

theorem setReadData (h : s.Inv) (v : HostWord) : (s.setReadData v).Inv := { h with }

theorem resetRegisters (h : s.Inv) : s.resetRegisters.Inv :=
  ((resetWith h.params_legal).setInbox s.inbox).setReadData s.readData

theorem finishOk (h : s.Inv) (valid : Bool) : (s.finishOk valid).Inv :=
  { h with status_wf := by simp [Status.wf] }

theorem raise (h : s.Inv) {f : Failure} (hf : f.wf) : (s.raise f).Inv :=
  { h with status_wf := ⟨fun _ => rfl, hf⟩ }

theorem setCrcOut (h : s.Inv) (c : Byte) : (s.setCrcOut c).Inv := { h with }

theorem setEncOut (h : s.Inv) (e : BitVec 24) : (s.setEncOut e).Inv := { h with }

theorem setSingle (h : s.Inv) {r : Scalar} (hr : r.wf) : (s.setSingle r).Inv :=
  { h with single_wf := hr }

theorem clearSingle (h : s.Inv) : s.clearSingle.Inv := h.setSingle Scalar.wf_empty

theorem setWords (h : s.Inv) {n : Byte} {vals : List Word} {oks : List Bool} (hn : n.toNat ≤ s.params.maxWords)
    (hvals : vals.length = s.params.maxWords) (hoks : oks.length = s.params.maxWords)
    (hclear : ∀ j < s.params.maxWords, n.toNat ≤ j → vals.getD j 0 = 0 ∧ oks.getD j false = false) :
    (s.setWords n vals oks).Inv :=
  { h with nw_le := hn, wval_length := hvals, wok_length := hoks, words_clear := hclear }

theorem clearWords (h : s.Inv) : s.clearWords.Inv :=
  h.setWords (by simp) (by simp) (by simp) fun j hj _ => by simp [hj]

theorem dropReading (h : s.Inv) : s.dropReading.Inv := { h with }

theorem commitReading (h : s.Inv) {rs : List Scalar} (hr : readingResult s = .ok rs) :
    (s.commitReading s.nf (committedFields s rs)).Inv :=
  { h with
    rnf_le := h.nf_le
    rd_length := committedFields_length s rs
    rd_wf := committedFields_wf hr
    rd_filled := fun k (hk : k < s.nf.toNat) => by
      have hget := (committedFields_getD (hk.trans_le h.nf_le) rs).trans (if_pos hk)
      have hkind := (fieldDecode_ok_wf (fieldDecode_of_readingResult hr hk)).2
      rwa [← hget] at hkind
    rd_clear := fun k hk (hnf : s.nf.toNat ≤ k) =>
      (committedFields_getD hk rs).trans (if_neg hnf.not_gt) }

theorem writeFlen (h : s.Inv) (v : Byte) : (s.writeFlen v).Inv := by
  unfold State.writeFlen
  split
  · exact h
  · next hv => exact { h with flen_le := Nat.le_of_not_lt hv }

theorem writeNf (h : s.Inv) (v : Byte) : (s.writeNf v).Inv := by
  unfold State.writeNf
  split
  · exact h
  · next hv => exact { h with nf_le := Nat.le_of_not_lt hv }

theorem writeFb (h : s.Inv) {i : Nat} (hi : i < s.params.maxFrameBytes) (v : Byte) : (s.writeFb i v).Inv :=
  { h with
    fb_wf := Memory.wf_write h.fb_wf i v
    fb_bound := Memory.bound_write h.fb_bound hi v }

theorem writeDesc (h : s.Inv) (k : Nat) (d : Desc) : (s.writeDesc k d).Inv :=
  { h with desc_length := by simpa using h.desc_length }

end State.Inv

/-! ## Commands, host accesses and the step -/

theorem execWdec_keeps_inv {s t : State} (h : s.Inv) (ht : execWdec s = .next t) : t.Inv := by
  unfold execWdec at ht
  split at ht
  · exact Host.Outcome.next.inj ht ▸ h.clearWords.raise fun _ => ⟨rfl, rfl⟩
  · obtain ⟨hnw, hmax⟩ := toNat_frameWords h
    refine Host.Outcome.next.inj ht ▸
      (h.setWords (hnw.trans_le hmax) (by simp) (by simp) fun j hj hle => ?_).finishOk _
    have hout : ¬ j < s.frameWords := by omega
    simp [hj, wdecValue, wdecOk, hout]

theorem execExtract_keeps_inv {k : Byte} {s t : State} (h : s.Inv) (ht : execExtract k s = .next t) : t.Inv := by
  obtain ⟨f, -, he⟩ | ⟨f, hf, he⟩ | ⟨r, hr, he⟩ := execExtract_cases k s
  · simp [he] at ht
  · exact Host.Outcome.next.inj (he ▸ ht) ▸ h.clearSingle.raise (extractResult_fail_wf hf)
  · obtain ⟨-, -, hd⟩ := extractResult_eq_ok.1 hr
    exact Host.Outcome.next.inj (he ▸ ht) ▸ (h.setSingle (fieldDecode_ok_wf hd).1).finishOk true

theorem execReading_keeps_inv {s t : State} (h : s.Inv) (ht : execReading s = .next t) : t.Inv := by
  obtain ⟨f, -, he⟩ | ⟨f, hf, he⟩ | ⟨rs, hr, he⟩ := execReading_cases s
  · simp [he] at ht
  · exact Host.Outcome.next.inj (he ▸ ht) ▸ h.dropReading.raise (readingResult_fail_wf hf)
  · exact Host.Outcome.next.inj (he ▸ ht) ▸ (h.commitReading hr).finishOk true

theorem raiseUnknownOperation_keeps_inv {s t : State} (h : s.Inv) (ht : raiseUnknownOperation s = .next t) : t.Inv :=
  Host.Outcome.next.inj ht ▸ h.raise fun _ => ⟨rfl, rfl⟩

/-- Every command keeps the invariant, whatever its outcome. -/
theorem exec_keeps_inv {i : Instr} {s t : State} (h : s.Inv) (ht : exec i s = .next t) : t.Inv := by
  cases i with
  | crc8 a b => exact Host.Outcome.next.inj ht ▸ (h.setCrcOut _).finishOk _
  | check a b c => exact Host.Outcome.next.inj ht ▸ (h.setCrcOut _).finishOk _
  | wenc v => exact Host.Outcome.next.inj ht ▸ ((h.setEncOut _).setCrcOut _).finishOk _
  | wdec => exact execWdec_keeps_inv h ht
  | extract k => exact execExtract_keeps_inv h ht
  | reading => exact execReading_keeps_inv h ht
  | illegal0 | illegal7 | illegal8 | illegal9 | illegalA | illegalB | illegalC | illegalD | illegalE | illegalF =>
    exact raiseUnknownOperation_keeps_inv h ht

/-- A host write to a register of the map keeps the invariant. -/
theorem writeReg_keeps_inv {s t : State} {v : HostWord} {r : Reg} (h : s.Inv) (hr : r.mapped s.params = true)
    (ht : writeReg s v r = .next t) : t.Inv := by
  cases r with
  | cmd => exact exec_keeps_inv h ht
  | flen => exact Host.Outcome.next.inj ht ▸ h.writeFlen _
  | nf => exact Host.Outcome.next.inj ht ▸ h.writeNf _
  | fb i => exact Host.Outcome.next.inj ht ▸ h.writeFb (of_decide_eq_true hr) _
  | desc k => exact Host.Outcome.next.inj ht ▸ h.writeDesc k v
  | status | crcOut | encOut | rKind | rBits | rNum | rDen | rTag | nw | rvalid | rnf | wval | wok | rdKind | rdBits
  | rdNum | rdDen | rdTag => exact Host.Outcome.next.inj ht ▸ h

theorem hostWrite_keeps_inv {s t : State} {index : RegIndex} {v : HostWord} (h : s.Inv)
    (ht : hostWrite s index v = .next t) : t.Inv := by
  unfold hostWrite at ht
  split at ht
  · exact Host.Outcome.next.inj ht ▸ h
  · next r hr => exact writeReg_keeps_inv h (mapped_of_regAt hr) ht

/-- Every event of the host's side keeps the invariant. -/
theorem perform_keeps_inv {s t : State} {e : HostEvent} (h : s.Inv) (ht : perform s e = .next t) : t.Inv := by
  cases e with
  | read index => exact Host.Outcome.next.inj ht ▸ h.setReadData _
  | write index v => exact hostWrite_keeps_inv h ht
  | reset => exact Host.Outcome.next.inj ht ▸ h.resetRegisters

theorem step_keeps_inv {s t : State} (h : s.Inv) (ht : step s = .next t) : t.Inv := by
  cases hi : s.inbox with
  | nil =>
    rw [step_of_inbox_nil hi] at ht
    exact Host.Outcome.next.inj ht ▸ h
  | cons e rest =>
    rw [step_of_inbox_cons hi] at ht
    exact perform_keeps_inv (h.setInbox rest) ht

end Sys2Proof.Machine

namespace Sys2Proof.Proofs

open Sys2Proof.Machine

/-- Settles O59: a step performs at most one host access, and every update of the state keeps the invariant. -/
theorem stepKeepsTheInvariant : Obligations.StepKeepsTheInvariant := by
  unfold Obligations.StepKeepsTheInvariant
  exact fun _ _ h ht => step_keeps_inv h ht

/-- Settles O58: after reset every register is 0 and every array has its capacity, for any legal parameters. -/
theorem resetMeetsTheInvariant : Obligations.ResetMeetsTheInvariant := by
  unfold Obligations.ResetMeetsTheInvariant
  exact ⟨fun _ hp => State.Inv.resetWith hp, State.Inv.resetWith (by decide)⟩

end Sys2Proof.Proofs
end

section
/-! PROOF. The state and the host port: what a command can write and what it can read, the register map as a bijection,
and what one host access does to the registers. -/

namespace Sys2Proof.Machine

/-! ## What a command writes (spec R20 to R27, D33) -/

/-- `s` with the registers that command `i` may write taken from `t`: the footprint of R67 to R103 as an update. -/
def State.takeWritten (i : Instr) (s t : State) : State :=
  match i with
  | .crc8 _ _ | .check _ _ _ => { s with status := t.status, crcOut := t.crcOut }
  | .wenc _ => { s with status := t.status, crcOut := t.crcOut, encOut := t.encOut }
  | .wdec => { s with status := t.status, nw := t.nw, wval := t.wval, wok := t.wok }
  | .extract _ => { s with status := t.status, single := t.single }
  | .reading => { s with status := t.status, rvalid := t.rvalid, rnf := t.rnf, rd := t.rd }
  | .illegal0 | .illegal7 | .illegal8 | .illegal9 | .illegalA | .illegalB | .illegalC | .illegalD | .illegalE
  | .illegalF => { s with status := t.status }

section
variable (i : Instr) (s t : State)

@[simp] theorem State.takeWritten_params : (s.takeWritten i t).params = s.params := by cases i <;> rfl
@[simp] theorem State.takeWritten_flen : (s.takeWritten i t).flen = s.flen := by cases i <;> rfl
@[simp] theorem State.takeWritten_nf : (s.takeWritten i t).nf = s.nf := by cases i <;> rfl
@[simp] theorem State.takeWritten_desc : (s.takeWritten i t).desc = s.desc := by cases i <;> rfl
@[simp] theorem State.takeWritten_fb : (s.takeWritten i t).fb = s.fb := by cases i <;> rfl
@[simp] theorem State.takeWritten_inbox : (s.takeWritten i t).inbox = s.inbox := by cases i <;> rfl
@[simp] theorem State.takeWritten_readData : (s.takeWritten i t).readData = s.readData := by cases i <;> rfl

end

theorem State.takeWritten_rvalid {i : Instr} (hi : i ≠ .reading) (s t : State) :
    (s.takeWritten i t).rvalid = s.rvalid := by
  cases i with
  | reading => exact absurd rfl hi
  | _ => rfl

theorem execWdec_eq_takeWritten {s t : State} (h : execWdec s = .next t) : t = s.takeWritten .wdec t := by
  unfold execWdec at h
  split at h <;> (obtain rfl := Host.Outcome.next.inj h; rfl)

theorem execExtract_eq_takeWritten {k : Byte} {s t : State} (h : execExtract k s = .next t) :
    t = s.takeWritten (.extract k) t := by
  obtain ⟨f, -, he⟩ | ⟨f, -, he⟩ | ⟨r, -, he⟩ := execExtract_cases k s
  · simp [he] at h
  · obtain rfl := Host.Outcome.next.inj (he.symm.trans h); rfl
  · obtain rfl := Host.Outcome.next.inj (he.symm.trans h); rfl

theorem execReading_eq_takeWritten {s t : State} (h : execReading s = .next t) : t = s.takeWritten .reading t := by
  obtain ⟨f, -, he⟩ | ⟨f, -, he⟩ | ⟨rs, -, he⟩ := execReading_cases s
  · simp [he] at h
  · obtain rfl := Host.Outcome.next.inj (he.symm.trans h); rfl
  · obtain rfl := Host.Outcome.next.inj (he.symm.trans h); rfl

/-- Whatever its outcome, a command writes the registers of its footprint alone. -/
theorem exec_eq_takeWritten {i : Instr} {s t : State} (h : exec i s = .next t) : t = s.takeWritten i t := by
  cases i with
  | wdec => exact execWdec_eq_takeWritten h
  | extract k => exact execExtract_eq_takeWritten h
  | reading => exact execReading_eq_takeWritten h
  | crc8 | check | wenc | illegal0 | illegal7 | illegal8 | illegal9 | illegalA | illegalB | illegalC | illegalD
  | illegalE | illegalF => obtain rfl := Host.Outcome.next.inj h; rfl

section
variable {i : Instr} {s t : State} (h : exec i s = .next t)
include h

theorem exec_params : t.params = s.params := by rw [exec_eq_takeWritten h, State.takeWritten_params]
theorem exec_flen : t.flen = s.flen := by rw [exec_eq_takeWritten h, State.takeWritten_flen]
theorem exec_nf : t.nf = s.nf := by rw [exec_eq_takeWritten h, State.takeWritten_nf]
theorem exec_desc : t.desc = s.desc := by rw [exec_eq_takeWritten h, State.takeWritten_desc]
theorem exec_fb : t.fb = s.fb := by rw [exec_eq_takeWritten h, State.takeWritten_fb]
theorem exec_inbox : t.inbox = s.inbox := by rw [exec_eq_takeWritten h, State.takeWritten_inbox]
theorem exec_readData : t.readData = s.readData := by rw [exec_eq_takeWritten h, State.takeWritten_readData]

end

theorem readReg_takeWritten_wdec {s t : State} {r : Reg} (hr : r.mapped s.params = true) (hst : r ≠ .status)
    (hwords : r ∉ wordRegs s.params) : readReg (s.takeWritten .wdec t) r = readReg s r := by
  obtain ⟨hnw, hval, hok⟩ := notMem_wordRegs.1 hwords
  cases r with
  | status => exact absurd rfl hst
  | nw => exact absurd rfl hnw
  | wval j => exact absurd rfl (hval j (of_decide_eq_true hr))
  | wok j => exact absurd rfl (hok j (of_decide_eq_true hr))
  | _ => rfl

theorem readReg_takeWritten_extract {k : Byte} {s t : State} {r : Reg} (hst : r ≠ .status)
    (hsingle : r ∉ singleRegs) : readReg (s.takeWritten (.extract k) t) r = readReg s r := by
  cases r with
  | status => exact absurd rfl hst
  | rKind | rBits | rNum | rDen | rTag => exact absurd (by simp [singleRegs]) hsingle
  | _ => rfl

theorem readReg_takeWritten_reading {s t : State} {r : Reg} (hr : r.mapped s.params = true) (hst : r ≠ .status)
    (hreading : r ∉ readingRegs s.params) : readReg (s.takeWritten .reading t) r = readReg s r := by
  obtain ⟨hvalid, hrnf, hrd⟩ := notMem_readingRegs.1 hreading
  cases r with
  | status => exact absurd rfl hst
  | rvalid => exact absurd rfl hvalid
  | rnf => exact absurd rfl hrnf
  | rdKind k | rdBits k | rdNum k | rdDen k | rdTag k => simpa using hrd k (of_decide_eq_true hr)
  | _ => rfl

/-- The update agrees with the rules' own lists of registers, `footprint`. -/
theorem readReg_takeWritten {i : Instr} {s t : State} {r : Reg} (hr : r.mapped s.params = true)
    (hfoot : r ∉ footprint s.params i) : readReg (s.takeWritten i t) r = readReg s r := by
  cases i with
  | crc8 | check =>
    cases r with
    | status | crcOut => simp [footprint] at hfoot
    | _ => rfl
  | wenc =>
    cases r with
    | status | crcOut | encOut => simp [footprint] at hfoot
    | _ => rfl
  | wdec => exact readReg_takeWritten_wdec hr (List.ne_of_not_mem_cons hfoot) (List.not_mem_of_not_mem_cons hfoot)
  | extract k => exact readReg_takeWritten_extract (List.ne_of_not_mem_cons hfoot) (List.not_mem_of_not_mem_cons hfoot)
  | reading => exact readReg_takeWritten_reading hr (List.ne_of_not_mem_cons hfoot) (List.not_mem_of_not_mem_cons hfoot)
  | illegal0 | illegal7 | illegal8 | illegal9 | illegalA | illegalB | illegalC | illegalD | illegalE | illegalF =>
    cases r with
    | status => simp [footprint] at hfoot
    | _ => rfl

/-! ## What a command reads (spec R26, R100) -/

/-- `s` with what no command reads replaced: STATUS, and the frame buffer by one that agrees with it below FLEN. -/
def State.withUnread (s : State) (st : Status) (m : Memory) : State := { s with status := st, fb := m }

section
variable {s : State} (st : Status) {m : Memory} (hm : ∀ a < s.flen.toNat, m.read a = s.fb.read a)

@[simp] theorem State.withUnread_params : (s.withUnread st m).params = s.params := rfl
@[simp] theorem State.withUnread_fb : (s.withUnread st m).fb = m := rfl
@[simp] theorem State.withUnread_frameWords : (s.withUnread st m).frameWords = s.frameWords := rfl
@[simp] theorem State.withUnread_descAt (k : Nat) : (s.withUnread st m).descAt k = s.descAt k := rfl
@[simp] theorem State.withUnread_fields : (s.withUnread st m).fields = s.fields := rfl

theorem frameFailure_withUnread : frameFailure (s.withUnread st m) = frameFailure s := rfl
theorem configFailure_withUnread (k : Nat) : configFailure (s.withUnread st m) k = configFailure s k := rfl
theorem readingConfigFailure_withUnread : readingConfigFailure (s.withUnread st m) = readingConfigFailure s := rfl

include hm

theorem groupAt_of_agree {b : Nat} (hb : b + 3 ≤ s.flen.toNat) : groupAt m b = groupAt s.fb b := by
  simp only [groupAt, hm b (by omega), hm (b + 1) (by omega), hm (b + 2) (by omega)]

theorem readGroups_withUnread {b n : Nat} (h : b + 3 * n ≤ s.flen.toNat) :
    readGroups (s.withUnread st m) b n = readGroups s b n := by
  have hgroups : (List.range n).map (fun j => groupAt m (b + 3 * j)) =
      (List.range n).map fun j => groupAt s.fb (b + 3 * j) :=
    List.map_congr_left fun j hj => groupAt_of_agree hm (by have := List.mem_range.1 hj; omega)
  simp only [readGroups, State.withUnread_params, State.withUnread_fb, hgroups]

/-- The checksum check reads the descriptor's span, which the range check has kept inside the frame. -/
theorem fieldWords_withUnread {k : Nat} (hk : FieldLegal s k) :
    fieldWords (s.withUnread st m) k = fieldWords s k := by
  obtain ⟨-, hrange⟩ := hk
  unfold fieldWords
  rw [State.withUnread_descAt, readGroups_withUnread st hm hrange]
  rfl

theorem fieldDecode_withUnread (k : Nat) : fieldDecode (s.withUnread st m) k = fieldDecode s k := by
  unfold fieldDecode
  rw [configFailure_withUnread]
  cases hc : configFailure s k with
  | some f => rfl
  | none =>
    rw [fieldWords_withUnread st hm (configFailure_eq_none.1 hc)]
    rfl

theorem extractResult_withUnread (k : Byte) : extractResult k (s.withUnread st m) = extractResult k s := by
  unfold extractResult
  rw [frameFailure_withUnread, fieldDecode_withUnread st hm]
  rfl

theorem checkFields_withUnread {ks : List Nat} (hks : ∀ k ∈ ks, FieldLegal s k) :
    checkFields (s.withUnread st m) ks = checkFields s ks := by
  induction ks with
  | nil => rfl
  | cons k ks ih =>
    obtain ⟨hk, hrest⟩ := List.forall_mem_cons.1 hks
    simp only [checkFields, fieldWords_withUnread st hm hk, ih hrest]

theorem stageFields_withUnread (ks : List Nat) : stageFields (s.withUnread st m) ks = stageFields s ks := by
  induction ks with
  | nil => rfl
  | cons k ks ih => simp only [stageFields, fieldDecode_withUnread st hm, ih]

theorem readingResult_withUnread : readingResult (s.withUnread st m) = readingResult s := by
  unfold readingResult
  rw [readingConfigFailure_withUnread, State.withUnread_fields, stageFields_withUnread st hm]
  cases hc : readingConfigFailure s with
  | some f => rfl
  | none =>
    obtain ⟨-, hlegal, -⟩ := readingConfigFailure_eq_none.1 hc
    rw [checkFields_withUnread st hm (ks := s.fields) fun k hk => hlegal k (List.mem_range.1 hk)]

/-- WDEC reads the whole groups below FLEN. -/
theorem wdecGroup_of_agree {j : Nat} (hj : j < s.frameWords) : groupAt m (3 * j) = groupAt s.fb (3 * j) :=
  groupAt_of_agree hm (by unfold State.frameWords at hj; omega)

theorem wdecValue_withUnread : wdecValue (s.withUnread st m) = wdecValue s := by
  funext j
  by_cases hj : j < s.frameWords
  · simp [wdecValue, hj, wdecGroup_of_agree hm hj]
  · simp [wdecValue, hj]

theorem wdecOk_withUnread : wdecOk (s.withUnread st m) = wdecOk s := by
  funext j
  by_cases hj : j < s.frameWords
  · simp [wdecOk, hj, wdecGroup_of_agree hm hj]
  · simp [wdecOk, hj]

theorem execWdec_withUnread :
    execWdec (s.withUnread st m) = mapNext (fun t => { t with fb := m }) (execWdec s) := by
  unfold execWdec wdecAll
  rw [wdecValue_withUnread st hm, wdecOk_withUnread st hm, apply_ite (mapNext _)]
  rfl

/-- A command reads neither STATUS nor a frame byte at or above FLEN, and no command writes a frame byte. -/
theorem exec_withUnread (i : Instr) :
    exec i (s.withUnread st m) = mapNext (fun t => { t with fb := m }) (exec i s) := by
  cases i with
  | wdec => exact execWdec_withUnread st hm
  | extract k =>
    show execExtract k (s.withUnread st m) = mapNext _ (execExtract k s)
    unfold execExtract
    rw [extractResult_withUnread st hm]
    cases extractResult k s <;> rfl
  | reading =>
    show execReading (s.withUnread st m) = mapNext _ (execReading s)
    unfold execReading
    rw [readingResult_withUnread st hm]
    cases readingResult s <;> rfl
  | crc8 | check | wenc | illegal0 | illegal7 | illegal8 | illegal9 | illegalA | illegalB | illegalC | illegalD
  | illegalE | illegalF => rfl

end

/-- What a command does does not depend on the STATUS before it (spec R100). -/
theorem exec_withStatus (i : Instr) (s : State) (st : Status) : exec i { s with status := st } = exec i s := by
  have hfb : mapNext (fun t => { t with fb := s.fb }) (exec i s) = exec i s := by
    cases hs : exec i s with
    | next t => rw [mapNext_next, ← exec_fb hs]
    | fault | refused => rfl
  exact (exec_withUnread st (fun _ _ => rfl) i).trans hfb

/-! ## The register map (spec R16) -/

/-- The scalar registers stand in the order of their indices. -/
theorem index_of_scalarRegs {n : Nat} {r : Reg} (h : scalarRegs[n]? = some r) : r.index = n := by
  have hmap : (scalarRegs.map Reg.index)[n]? = some r.index := by rw [List.getElem?_map, h]; rfl
  rw [show scalarRegs.map Reg.index = List.range 14 from rfl] at hmap
  obtain ⟨hn, hget⟩ := List.getElem?_eq_some_iff.1 hmap
  rw [← hget, List.getElem_range]

theorem index_of_arrayReg {n : Nat} {r : Reg} (h : arrayReg n = some r) : r.index = n := by
  unfold arrayReg at h
  split_ifs at h <;> obtain rfl := Option.some.inj h <;> simp only [Reg.index] <;> omega

/-- An index names the register that has it. -/
theorem port_of_regAt {p : Params} {index : RegIndex} {r : Reg} (h : regAt p index = some r) : r.port = index := by
  have hindex : r.index = index.toNat := by
    obtain hs | ⟨-, ha⟩ := Option.or_eq_some_iff.1 (Option.filter_eq_some_iff.1 h).1
    · exact index_of_scalarRegs hs
    · exact index_of_arrayReg ha
  rw [Reg.port, hindex, BitVec.ofNat_toNat, BitVec.setWidth_eq]

/-- The bounds of R7 keep every array inside its range of indices. -/
theorem scalarRegs_or_arrayReg_of_mapped {p : Params} (hp : p.legal) {r : Reg} (hr : r.mapped p = true) :
    (scalarRegs[r.index]?).or (arrayReg r.index) = some r := by
  obtain ⟨-, hframe, -, hfields⟩ := hp
  have hwords : p.maxWords ≤ 85 := by unfold Params.maxWords; omega
  have hnone : ∀ n, 0x100 ≤ n → scalarRegs[n]? = none := fun n hn =>
    List.getElem?_eq_none (by simp only [scalarRegs, List.length_cons, List.length_nil]; omega)
  cases r with
  | fb | wval | wok | desc | rdKind | rdBits | rdNum | rdDen | rdTag =>
    have hk := of_decide_eq_true hr
    rw [Reg.index, hnone _ (by omega), Option.none_or]
    simp (disch := omega) only [arrayReg, if_neg, if_pos, Nat.add_sub_cancel_left]
  | _ => rfl

theorem regAt_port {p : Params} (hp : p.legal) {r : Reg} (hr : r.mapped p = true) : regAt p r.port = some r := by
  unfold regAt
  rw [Reg.port_toNat hp hr, scalarRegs_or_arrayReg_of_mapped hp hr, Option.filter_some, if_pos hr]

/-! ## Host accesses (spec R15 to R18, R40) -/

@[simp] theorem perform_read (s : State) (index : RegIndex) :
    perform s (.read index) = .next (s.setReadData (hostRead s index)) := rfl

theorem hostRead_of_unmapped {s : State} {index : RegIndex} (h : regAt s.params index = none) :
    hostRead s index = 0 := by
  rw [hostRead, h]

theorem perform_write_of_unmapped {s : State} {index : RegIndex} (h : regAt s.params index = none) (v : HostWord) :
    perform s (.write index v) = .next s := by
  rw [perform, hostWrite, h]

theorem hostRead_of_regAt {s : State} {index : RegIndex} {r : Reg} (h : regAt s.params index = some r) :
    hostRead s index = readReg s r := by
  rw [hostRead, h]

theorem perform_write_of_regAt {s : State} {index : RegIndex} {r : Reg} (h : regAt s.params index = some r)
    (v : HostWord) : perform s (.write index v) = writeReg s v r := by
  rw [perform, hostWrite, h]

theorem writeReg_of_readOnly {r : Reg} (h : r.access = .readOnly) (s : State) (v : HostWord) :
    writeReg s v r = .next s := by
  cases r with
  | cmd | flen | nf | fb | desc => exact absurd h (by simp [Reg.access])
  | _ => rfl

/-- A host write to CMD executes the command `v[31:0]` (spec R18). -/
theorem perform_write_cmd (s : State) (v : HostWord) :
    perform s (.write 0x000 v) = exec (decode (v.extractLsb' 0 32)) s := by
  rw [perform_write_of_regAt (regAt_cmd s.params), writeReg, BitVec.setWidth_eq_extractLsb' (by omega)]

/-- What a host write to FLEN does, both clauses of the rule (spec R23). -/
theorem perform_write_flen (s : State) (v : HostWord) : perform s (.write 0x009 v) =
    if s.params.maxFrameBytes < v.toNat % 256 then .next s else .next { s with flen := v.extractLsb' 0 8 } := by
  rw [perform_write_of_regAt (regAt_flen s.params), writeReg, State.writeFlen, BitVec.toNat_setWidth,
    apply_ite Host.Outcome.next, BitVec.setWidth_eq_extractLsb' (by omega)]

/-- What a host write to NF does, both clauses of the rule (spec R25). -/
theorem perform_write_nf (s : State) (v : HostWord) : perform s (.write 0x00B v) =
    if s.params.maxFields < v.toNat % 256 then .next s else .next { s with nf := v.extractLsb' 0 8 } := by
  rw [perform_write_of_regAt (regAt_nf s.params), writeReg, State.writeNf, BitVec.toNat_setWidth,
    apply_ite Host.Outcome.next, BitVec.setWidth_eq_extractLsb' (by omega)]

/-- A register zero-extended to the port's width is below 2 to its own width. -/
theorem toNat_setWidth_lt {w : Nat} (x : BitVec w) : (x.setWidth 64).toNat < 2 ^ w := by
  rw [BitVec.toNat_setWidth]
  exact (Nat.mod_le _ _).trans_lt x.isLt

theorem readReg_lt (s : State) (r : Reg) : (readReg s r).toNat < 2 ^ r.width := by
  cases r with
  | cmd => exact Nat.two_pow_pos 32
  | rNum | desc | rdNum => exact BitVec.isLt _
  | _ => exact toNat_setWidth_lt _

section
variable {s : State}

theorem SameExcept.params {regs : List Reg} {t : State} (h : SameExcept regs s t) : t.params = s.params := by
  obtain ⟨-, hparams, -⟩ := h
  exact hparams

theorem writeFlen_sameExcept (v : Byte) : SameExcept [.flen] s (s.writeFlen v) := by
  refine ⟨fun r _ hne => ?_, by simp, by simp, by simp⟩
  unfold State.writeFlen
  split
  · rfl
  · cases r with
    | flen => simp at hne
    | _ => rfl

theorem writeNf_sameExcept (v : Byte) : SameExcept [.nf] s (s.writeNf v) := by
  refine ⟨fun r _ hne => ?_, by simp, by simp, by simp⟩
  unfold State.writeNf
  split
  · rfl
  · cases r with
    | nf => simp at hne
    | _ => rfl

theorem writeFb_sameExcept (h : s.fb.wf) (i : Nat) (v : Byte) : SameExcept [.fb i] s (s.writeFb i v) := by
  refine ⟨fun r _ hne => ?_, rfl, rfl, rfl⟩
  cases r with
  | fb j =>
    have hji : j ≠ i := by simpa using hne
    simp [readReg, Memory.read_write_other h v hji]
  | _ => rfl

theorem State.descAt_writeDesc {k : Nat} (hk : k < s.desc.length) (d : Desc) (j : Nat) :
    (s.writeDesc k d).descAt j = if k = j then d else s.descAt j := by
  simp only [State.descAt, State.writeDesc_desc, List.getD_eq_getElem?_getD, List.getElem?_set, hk, if_true]
  split <;> rfl

theorem writeDesc_sameExcept {k : Nat} (hk : k < s.desc.length) (d : Desc) :
    SameExcept [.desc k] s (s.writeDesc k d) := by
  refine ⟨fun r _ hne => ?_, rfl, rfl, rfl⟩
  cases r with
  | desc j =>
    have hkj : k ≠ j := fun e => hne (by simp [e])
    simp [readReg, State.descAt_writeDesc hk, hkj]
  | _ => rfl

end

/-- A legal host write to an RW register stores the low bits of the value and changes no other register. -/
theorem writeReg_of_readWrite {s : State} {r : Reg} {v : HostWord} (h : s.Inv) (hr : r.mapped s.params = true)
    (hrw : r.access = .readWrite) (hflen : r = .flen → v.toNat % 256 ≤ s.params.maxFrameBytes)
    (hnf : r = .nf → v.toNat % 256 ≤ s.params.maxFields) :
    ∃ t, writeReg s v r = .next t ∧ (readReg t r).toNat = v.toNat % 2 ^ r.width ∧ SameExcept [r] s t := by
  have hlow : ((v.setWidth 8 : Byte).setWidth 64).toNat = v.toNat % 2 ^ 8 := by
    rw [BitVec.toNat_setWidth_of_le (by omega), BitVec.toNat_setWidth]
  cases r with
  | flen =>
    refine ⟨_, rfl, ?_, writeFlen_sameExcept _⟩
    rw [readReg, State.writeFlen_flen, if_neg (by rw [BitVec.toNat_setWidth]; exact (hflen rfl).not_gt)]
    exact hlow
  | nf =>
    refine ⟨_, rfl, ?_, writeNf_sameExcept _⟩
    rw [readReg, State.writeNf_nf, if_neg (by rw [BitVec.toNat_setWidth]; exact (hnf rfl).not_gt)]
    exact hlow
  | fb i =>
    refine ⟨_, rfl, ?_, writeFb_sameExcept h.fb_wf i _⟩
    rw [readReg, State.writeFb_fb, Memory.read_write_same h.fb_wf]
    exact hlow
  | desc k =>
    have hk : k < s.desc.length := h.desc_length ▸ of_decide_eq_true hr
    refine ⟨_, rfl, ?_, writeDesc_sameExcept hk v⟩
    rw [readReg, State.descAt_writeDesc hk, if_pos rfl]
    exact (Nat.mod_eq_of_lt v.isLt).symm
  | _ => exact absurd hrw (by simp [Reg.access])

/-- The same at the port: the value reads back. -/
theorem perform_write_of_readWrite {s : State} {r : Reg} {v : HostWord} (h : s.Inv) (hr : r.mapped s.params = true)
    (hrw : r.access = .readWrite) (hflen : r = .flen → v.toNat % 256 ≤ s.params.maxFrameBytes)
    (hnf : r = .nf → v.toNat % 256 ≤ s.params.maxFields) :
    ∃ t, perform s (.write r.port v) = .next t ∧ (hostRead t r.port).toNat = v.toNat % 2 ^ r.width ∧
      SameExcept [r] s t := by
  obtain ⟨t, hwrite, hread, hsame⟩ := writeReg_of_readWrite h hr hrw hflen hnf
  have hreg := regAt_port h.params_legal hr
  refine ⟨t, (perform_write_of_regAt hreg v).trans hwrite, ?_, hsame⟩
  rw [hostRead_of_regAt (hsame.params ▸ hreg), hread]

/-! ## What an access other than a command leaves unchanged -/

/-- A host write to a register other than CMD writes neither flag, nor the host's side of the port. -/
theorem writeReg_keeps {s t : State} {v : HostWord} {r : Reg} (hr : r ≠ .cmd) (h : writeReg s v r = .next t) :
    t.rvalid = s.rvalid ∧ t.status = s.status ∧ t.inbox = s.inbox ∧ t.params = s.params := by
  cases r with
  | cmd => exact absurd rfl hr
  | flen | nf => obtain rfl := Host.Outcome.next.inj h; simp
  | _ => obtain rfl := Host.Outcome.next.inj h; exact ⟨rfl, rfl, rfl, rfl⟩

/-- What a host write can come to: nothing at an unmapped index, else the register's own write. -/
theorem perform_write_cases {s t : State} {index : RegIndex} {v : HostWord}
    (h : perform s (.write index v) = .next t) :
    t = s ∨ ∃ r, regAt s.params index = some r ∧ writeReg s v r = .next t := by
  cases hr : regAt s.params index with
  | none => exact .inl (Host.Outcome.next.inj ((perform_write_of_unmapped hr v).symm.trans h)).symm
  | some r => exact .inr ⟨r, rfl, (perform_write_of_regAt hr v).symm.trans h⟩

theorem perform_write_keeps_flags {s t : State} {index : RegIndex} {v : HostWord} (hi : index ≠ Reg.cmd.port)
    (h : perform s (.write index v) = .next t) : t.rvalid = s.rvalid ∧ t.status = s.status := by
  obtain rfl | ⟨r, hr, hw⟩ := perform_write_cases h
  · exact ⟨rfl, rfl⟩
  · have hcmd : r ≠ .cmd := fun e => hi (by rw [← port_of_regAt hr, e])
    obtain ⟨hvalid, hstatus, -⟩ := writeReg_keeps hcmd hw
    exact ⟨hvalid, hstatus⟩

theorem writeReg_keeps_inbox {s t : State} {v : HostWord} {r : Reg} (h : writeReg s v r = .next t) :
    t.inbox = s.inbox ∧ t.params = s.params := by
  by_cases hr : r = .cmd
  · subst hr
    exact ⟨exec_inbox h, exec_params h⟩
  · exact (writeReg_keeps hr h).2.2

/-- Whatever an event does, the accesses still to come and the parameters stay. -/
theorem perform_keeps_inbox {s t : State} {e : HostEvent} (h : perform s e = .next t) :
    t.inbox = s.inbox ∧ t.params = s.params := by
  cases e with
  | read | reset => obtain rfl := Host.Outcome.next.inj h; exact ⟨rfl, rfl⟩
  | write index v =>
    obtain rfl | ⟨r, -, hw⟩ := perform_write_cases h
    · exact ⟨rfl, rfl⟩
    · exact writeReg_keeps_inbox hw

/-! ## The step -/

theorem step_of_write_cmd {s : State} {v : HostWord} {rest : List HostEvent} (h : s.inbox = .write 0x000 v :: rest) :
    step s = exec (decode (v.extractLsb' 0 32)) (s.setInbox rest) := by
  rw [step_of_inbox_cons h, perform_write_cmd]

/-- An issued command is the next one the block runs. -/
theorem step_issueCommand (s : State) (v : HostWord) :
    step (s.issueCommand v) = exec (decode (v.extractLsb' 0 32)) s :=
  step_of_write_cmd rfl

theorem decodeTableWord_eq_some {nbits w : Nat} {i : Instr} :
    decodeTableWord nbits w = some i ↔ nbits ≤ 32 ∧ decode (BitVec.ofNat 32 (w % 2 ^ nbits)) = i := by
  unfold decodeTableWord decodeBits
  by_cases h : 32 < nbits
  · simp [h]
  · simp [h, Nat.le_of_not_lt h]

/-! ## STATUS as a word (spec R19) -/

section
variable (s : State)

theorem statusWord_err : s.statusWord.extractLsb' 0 4 = s.status.err.code := by
  unfold State.statusWord
  rw [BitVec.extractLsb'_append_eq_of_add_le (by omega)]
  exact BitVec.extractLsb'_eq_self

theorem statusWord_valid : s.statusWord.getLsbD 4 = s.status.valid := by
  unfold State.statusWord
  rw [BitVec.getLsbD_append, if_neg (by omega), BitVec.getLsbD_append, if_pos (by omega)]
  simp

theorem statusWord_rvalid : s.statusWord.getLsbD 5 = s.rvalid := by
  unfold State.statusWord
  rw [BitVec.getLsbD_append, if_neg (by omega), BitVec.getLsbD_append, if_neg (by omega), BitVec.getLsbD_append,
    if_pos (by omega)]
  simp

theorem statusWord_reservedLow : s.statusWord.extractLsb' 6 2 = 0 := by
  unfold State.statusWord
  rw [BitVec.extractLsb'_append_eq_of_le (by omega), BitVec.extractLsb'_append_eq_of_le (by omega),
    BitVec.extractLsb'_append_eq_of_le (by omega), BitVec.extractLsb'_append_eq_of_add_le (by omega)]
  exact BitVec.extractLsb'_eq_self

theorem statusWord_errK : s.statusWord.extractLsb' 8 8 = s.status.errK := by
  unfold State.statusWord
  rw [BitVec.extractLsb'_append_eq_of_le (by omega), BitVec.extractLsb'_append_eq_of_le (by omega),
    BitVec.extractLsb'_append_eq_of_le (by omega), BitVec.extractLsb'_append_eq_of_le (by omega),
    BitVec.extractLsb'_append_eq_of_add_le (by omega)]
  exact BitVec.extractLsb'_eq_self

theorem statusWord_errTag : s.statusWord.extractLsb' 16 8 = s.status.errTag := by
  unfold State.statusWord
  rw [BitVec.extractLsb'_append_eq_of_le (by omega), BitVec.extractLsb'_append_eq_of_le (by omega),
    BitVec.extractLsb'_append_eq_of_le (by omega), BitVec.extractLsb'_append_eq_of_le (by omega),
    BitVec.extractLsb'_append_eq_of_le (by omega), BitVec.extractLsb'_append_eq_of_add_le (by omega)]
  exact BitVec.extractLsb'_eq_self

theorem statusWord_reservedHigh : s.statusWord.extractLsb' 24 8 = 0 := by
  unfold State.statusWord
  rw [BitVec.extractLsb'_append_eq_of_le (by omega), BitVec.extractLsb'_append_eq_of_le (by omega),
    BitVec.extractLsb'_append_eq_of_le (by omega), BitVec.extractLsb'_append_eq_of_le (by omega),
    BitVec.extractLsb'_append_eq_of_le (by omega), BitVec.extractLsb'_append_eq_of_le (by omega)]
  exact BitVec.extractLsb'_eq_self

end

end Sys2Proof.Machine

namespace Sys2Proof.Proofs

open Sys2Proof.Machine

/-- Settles O57: the range check keeps every field inside the frame, and WDEC reads whole groups below FLEN. -/
theorem bytesAboveFlenAreNeverRead : Obligations.BytesAboveFlenAreNeverRead := by
  unfold Obligations.BytesAboveFlenAreNeverRead
  exact ⟨fun _ _ _ h => exec_fb h, fun i s _ hm => exec_withUnread s.status hm i⟩

/-- Settles O53: a command writes the registers of its footprint alone. -/
theorem commandsWriteOnlyTheirFootprint : Obligations.CommandsWriteOnlyTheirFootprint := by
  unfold Obligations.CommandsWriteOnlyTheirFootprint
  refine fun i s t h => ⟨⟨fun r hr hfoot => ?_, exec_params h, exec_inbox h, exec_readData h⟩,
    fun a => by rw [exec_fb h]⟩
  rw [exec_eq_takeWritten h]
  exact readReg_takeWritten hr hfoot

/-- Settles O9: the placed word is issued on CMD, and its low 32 bits are the bits the decoder read. -/
theorem placedWordIsDecodedAndRun : Obligations.PlacedWordIsDecodedAndRun := by
  unfold Obligations.PlacedWordIsDecodedAndRun
  intro s nbits w i h
  obtain ⟨-, rfl⟩ := decodeTableWord_eq_some.1 h
  rw [State.withFetchWord, step_issueCommand, ← BitVec.setWidth_eq_extractLsb' (by omega),
    BitVec.setWidth_ofNat_of_le (by omega)]

/-- Settles O10: no event of the host's side touches the accesses behind it. -/
theorem stepTakesTheOldestAccess : Obligations.StepTakesTheOldestAccess := by
  unfold Obligations.StepTakesTheOldestAccess
  refine ⟨fun _ h => step_of_inbox_nil h, fun s e rest h => ⟨step_of_inbox_cons h, fun t ht => ?_⟩⟩
  exact perform_keeps_inbox ((step_of_inbox_cons h).symm.trans ht)

/-- Settles O14: the legal capacities keep the arrays apart. -/
theorem registerMapIsOneToOne : Obligations.RegisterMapIsOneToOne := by
  unfold Obligations.RegisterMapIsOneToOne
  exact fun p hp => ⟨fun r hr => ⟨regAt_port hp hr, Reg.port_toNat hp hr⟩,
    fun index r h => ⟨mapped_of_regAt h, port_of_regAt h⟩⟩

/-- Settles O15: a mapped register is found at its index, and each of the four RW writes stores the low bits. -/
theorem hostAccessesMoveWholeRegisters : Obligations.HostAccessesMoveWholeRegisters := by
  unfold Obligations.HostAccessesMoveWholeRegisters
  exact ⟨fun s r hp hr => ⟨hostRead_of_regAt (regAt_port hp hr), readReg_lt s r⟩,
    fun _ _ _ h hr hrw hflen hnf => perform_write_of_readWrite h hr hrw hflen hnf⟩

/-- Settles O17: an unmapped index has no register to write, and no R register has a write of its own. -/
theorem unmappedAndReadOnlyAccessesAreHarmless : Obligations.UnmappedAndReadOnlyAccessesAreHarmless := by
  unfold Obligations.UnmappedAndReadOnlyAccessesAreHarmless
  refine ⟨fun s index h => ⟨by rw [perform_read, hostRead_of_unmapped h], perform_write_of_unmapped h⟩,
    fun s index r h hro v => ?_⟩
  rw [perform_write_of_regAt h, writeReg_of_readOnly hro]

/-- Settles O18: the two clauses of the write rule, and FLEN is in no command's footprint. -/
theorem flenKeepsLegalValues : Obligations.FlenKeepsLegalValues := by
  unfold Obligations.FlenKeepsLegalValues
  exact ⟨perform_write_flen, fun _ _ _ h => exec_flen h⟩

/-- Settles O19: DESC[k] is as wide as the port, so a write of it is always legal and keeps every bit. -/
theorem descriptorTableIsTheHosts : Obligations.DescriptorTableIsTheHosts := by
  unfold Obligations.DescriptorTableIsTheHosts
  refine ⟨perform_write_nf, fun s k d h hk => ?_, fun _ _ _ h => ⟨exec_nf h, exec_desc h⟩⟩
  obtain ⟨t, hwrite, hread, hsame⟩ :=
    perform_write_of_readWrite (r := .desc k) (v := d) h (decide_eq_true hk) rfl nofun nofun
  exact ⟨t, hwrite, BitVec.eq_of_toNat_eq (hread.trans (Nat.mod_eq_of_lt d.isLt)), hsame⟩

/-- Settles O56: RVALID is in READING's footprint alone, and no command reads the STATUS before it. -/
theorem flagsAreWrittenOnlyByCommands : Obligations.FlagsAreWrittenOnlyByCommands := by
  unfold Obligations.FlagsAreWrittenOnlyByCommands
  refine ⟨fun i s t h hi => ?_, fun s t index v hi h => perform_write_keeps_flags hi h, fun s t index h => ?_,
    fun i s t b h => ⟨t, (exec_withStatus i s _).trans h, rfl⟩⟩
  · rw [exec_eq_takeWritten h, State.takeWritten_rvalid hi]
  · obtain rfl := Host.Outcome.next.inj h
    exact ⟨rfl, rfl⟩

/-- Settles O7: index 0 names CMD, whose write is a command and whose value is 0. -/
theorem commandPortExecutesTheWord : Obligations.CommandPortExecutesTheWord := by
  unfold Obligations.CommandPortExecutesTheWord
  exact ⟨rfl, rfl, rfl, perform_write_cmd, fun s => hostRead_of_regAt (regAt_cmd s.params)⟩

/-- Settles O8: the oldest access is taken, and a write to CMD is the command of its low 32 bits. -/
theorem stepRunsTheIssuedCommand : Obligations.StepRunsTheIssuedCommand := by
  unfold Obligations.StepRunsTheIssuedCommand
  intro s v rest i h hi
  rw [step_of_write_cmd h, hi]

/-- Settles O21: each field of STATUS is a slice of the concatenation that `statusWord` is. -/
theorem statusWordFields : Obligations.StatusWordFields := by
  unfold Obligations.StatusWordFields
  intro s
  refine ⟨?_, statusWord_valid s, statusWord_rvalid s, statusWord_reservedLow s, statusWord_errK s,
    statusWord_errTag s, statusWord_reservedHigh s⟩
  rw [statusWord_err]
  cases s.status.err <;> rfl

end Sys2Proof.Proofs
end

section
/-! PROOF. Host accesses and the frame buffer: what one access leaves unchanged, what a write to FB[i] does, and why a
run is its accesses in order: no access looks at the accesses behind it. -/

namespace Sys2Proof.Machine

/-! ## What a host access leaves unchanged (spec R41) -/

/-- No register shows the value last read. -/
@[simp] theorem readReg_setReadData (s : State) (v : HostWord) (r : Reg) :
    readReg (s.setReadData v) r = readReg s r := by
  cases r <;> rfl

@[simp] theorem hostRead_setReadData (s : State) (v : HostWord) (index : RegIndex) :
    hostRead (s.setReadData v) index = hostRead s index := by
  simp only [hostRead, State.setReadData_params, readReg_setReadData]

theorem SameExcept.refl (regs : List Reg) (s : State) : SameExcept regs s s :=
  ⟨fun _ _ _ => rfl, rfl, rfl, rfl⟩

/-- A host write to a mapped register other than CMD, legal or not, changes no other register. -/
theorem writeReg_sameExcept {s : State} {r : Reg} (h : s.Inv) (hr : r.mapped s.params = true) (hcmd : r ≠ .cmd)
    (v : HostWord) : ∃ t, writeReg s v r = .next t ∧ SameExcept [r] s t := by
  cases r with
  | cmd => exact absurd rfl hcmd
  | flen => exact ⟨_, rfl, writeFlen_sameExcept _⟩
  | nf => exact ⟨_, rfl, writeNf_sameExcept _⟩
  | fb i => exact ⟨_, rfl, writeFb_sameExcept h.fb_wf i _⟩
  | desc k => exact ⟨_, rfl, writeDesc_sameExcept (h.desc_length ▸ of_decide_eq_true hr) v⟩
  | _ => exact ⟨s, rfl, SameExcept.refl _ s⟩

theorem perform_write_sameExcept {s : State} {index : RegIndex} (h : s.Inv) (hcmd : index ≠ Reg.cmd.port)
    (v : HostWord) :
    ∃ t, perform s (.write index v) = .next t ∧ SameExcept (regAt s.params index).toList s t := by
  cases hr : regAt s.params index with
  | none => exact ⟨s, perform_write_of_unmapped hr v, SameExcept.refl _ s⟩
  | some r =>
    have hne : r ≠ .cmd := fun e => hcmd (by rw [← port_of_regAt hr, e])
    rw [perform_write_of_regAt hr]
    exact writeReg_sameExcept h (mapped_of_regAt hr) hne v

/-! ## The frame buffer at the port (spec R26, R31, R40) -/

section
variable {s : State} {i : Nat} (hp : s.params.legal) (hi : i < s.params.maxFrameBytes)
include hp hi

theorem regAt_fb : regAt s.params (BitVec.ofNat 16 (0x100 + i)) = some (.fb i) :=
  regAt_port (r := .fb i) hp (decide_eq_true hi)

theorem perform_write_fb (v : HostWord) :
    perform s (.write (BitVec.ofNat 16 (0x100 + i)) v) = .next (s.writeFb i (v.extractLsb' 0 8)) := by
  rw [perform_write_of_regAt (regAt_fb hp hi), writeReg, BitVec.setWidth_eq_extractLsb' (by omega)]

theorem hostRead_fb : hostRead s (BitVec.ofNat 16 (0x100 + i)) = (s.fb.read i).setWidth 64 :=
  hostRead_of_regAt (regAt_fb hp hi)

end

/-! ## No access looks at the accesses behind it (spec R44) -/

section
variable (s : State) (es : List HostEvent)

theorem fieldDecode_setInbox (k : Nat) : fieldDecode (s.setInbox es) k = fieldDecode s k := rfl

theorem checkFields_setInbox (ks : List Nat) : checkFields (s.setInbox es) ks = checkFields s ks := by
  induction ks with
  | nil => rfl
  | cons k ks ih => simp only [checkFields, ih]; rfl

theorem stageFields_setInbox (ks : List Nat) : stageFields (s.setInbox es) ks = stageFields s ks := by
  induction ks with
  | nil => rfl
  | cons k ks ih => simp only [stageFields, fieldDecode_setInbox, ih]

theorem readingResult_setInbox : readingResult (s.setInbox es) = readingResult s := by
  unfold readingResult
  rw [checkFields_setInbox, stageFields_setInbox]
  rfl

/-- No command reads the inbox or writes it. -/
theorem exec_setInbox (i : Instr) : exec i (s.setInbox es) = mapNext (·.setInbox es) (exec i s) := by
  cases i with
  | wdec =>
    show execWdec (s.setInbox es) = mapNext _ (execWdec s)
    unfold execWdec
    rw [apply_ite (mapNext _)]
    rfl
  | extract k =>
    have hresult : extractResult k (s.setInbox es) = extractResult k s := rfl
    show execExtract k (s.setInbox es) = mapNext _ (execExtract k s)
    unfold execExtract
    rw [hresult]
    cases extractResult k s <;> rfl
  | reading =>
    show execReading (s.setInbox es) = mapNext _ (execReading s)
    unfold execReading
    rw [readingResult_setInbox]
    cases readingResult s <;> rfl
  | crc8 | check | wenc | illegal0 | illegal7 | illegal8 | illegal9 | illegalA | illegalB | illegalC | illegalD
  | illegalE | illegalF => rfl

theorem writeFlen_setInbox (v : Byte) : (s.setInbox es).writeFlen v = (s.writeFlen v).setInbox es :=
  (apply_ite (State.setInbox · es) (s.params.maxFrameBytes < v.toNat) s { s with flen := v }).symm

theorem writeNf_setInbox (v : Byte) : (s.setInbox es).writeNf v = (s.writeNf v).setInbox es :=
  (apply_ite (State.setInbox · es) (s.params.maxFields < v.toNat) s { s with nf := v }).symm

theorem writeReg_setInbox (v : HostWord) (r : Reg) :
    writeReg (s.setInbox es) v r = mapNext (·.setInbox es) (writeReg s v r) := by
  cases r with
  | cmd => exact exec_setInbox s es _
  | flen => exact congrArg Host.Outcome.next (writeFlen_setInbox s es _)
  | nf => exact congrArg Host.Outcome.next (writeNf_setInbox s es _)
  | _ => rfl

/-- An access does the same whatever the host has issued behind it, and leaves that in place. -/
theorem perform_setInbox (e : HostEvent) :
    perform (s.setInbox es) e = mapNext (·.setInbox es) (perform s e) := by
  cases e with
  | read | reset => rfl
  | write index v =>
    cases hr : regAt s.params index with
    | none => rw [perform_write_of_unmapped hr, perform_write_of_unmapped (s := s.setInbox es) hr, mapNext_next]
    | some r =>
      rw [perform_write_of_regAt hr, perform_write_of_regAt (s := s.setInbox es) hr, writeReg_setInbox]

/-- A step with accesses pending is the oldest one, performed on the state without them. -/
theorem step_setInbox_cons (e : HostEvent) :
    step (s.setInbox (e :: es)) = mapNext (·.setInbox es) (perform s e) := by
  rw [step_of_inbox_cons (State.setInbox_inbox s (e :: es)), State.setInbox_setInbox, perform_setInbox]

/-- A run as long as the inbox performs it in order and empties it. -/
theorem run_setInbox : Sys2Proof.core.run es.length (s.setInbox es) =
    mapNext (fun t => t.setInbox []) (performAll s es) := by
  induction es generalizing s with
  | nil => rfl
  | cons e es ih =>
    have hstep : Sys2Proof.core.step (s.setInbox (e :: es)) = mapNext (·.setInbox es) (perform s e) :=
      step_setInbox_cons s es e
    simp only [List.length_cons, Host.Core.run, hstep, performAll]
    cases perform s e with
    | next t => exact ih t
    | fault | refused => rfl

end

end Sys2Proof.Machine

namespace Sys2Proof.Proofs

open Sys2Proof.Machine

/-- Settles O11, by induction on the accesses: a step is the oldest of them, which does not see the rest. -/
theorem runTakesTheAccessesInOrder : Obligations.RunTakesTheAccessesInOrder := by
  unfold Obligations.RunTakesTheAccessesInOrder
  exact run_setInbox

/-- Settles O16: no register shows the value last read, and a write reaches only the register at its index. -/
theorem onlyCommandWritesHaveSideEffects : Obligations.OnlyCommandWritesHaveSideEffects := by
  unfold Obligations.OnlyCommandWritesHaveSideEffects
  exact ⟨fun s index => ⟨_, perform_read s index, rfl, readReg_setReadData s _, hostRead_setReadData s _⟩,
    fun _ _ v h hcmd => perform_write_sameExcept h hcmd v⟩

/-- Settles O20: index 0x100 + i names FB[i], and the frame buffer reads what was last written. -/
theorem frameByteWrite : Obligations.FrameByteWrite := by
  unfold Obligations.FrameByteWrite
  intro s i v h hi
  have hlegal : (s.writeFb i (v.extractLsb' 0 8)).params.legal := h.params_legal
  refine ⟨_, perform_write_fb h.params_legal hi v, Memory.read_write h.fb_wf i _, rfl, ?_,
    hostRead_fb h.params_legal hi⟩
  rw [hostRead_fb hlegal hi, State.writeFb_fb, Memory.read_write_same h.fb_wf]

end Sys2Proof.Proofs
end

section
/-! PROOF. The encoding: the decoder against the encoder, the word of a command with its ignored bits cleared, the rows
of the opcode table, and the words of the assembler. -/

namespace Sys2Proof

/-! ## The bits a format ignores (spec R51) -/

/-- The encoder fills the fields of the format, and the decoder reads the same fields. -/
@[simp] theorem decode_encode (i : Instr) : decode (encode i) = i := by
  cases i with
  | crc8 | check | wenc | wdec | extract | reading | illegal0 | illegal7 | illegal8 | illegal9 | illegalA | illegalB
  | illegalC | illegalD | illegalE | illegalF => simp [encode, decode]

theorem encode_injective : Function.Injective encode := Function.LeftInverse.injective decode_encode

/-- A mask that ends in ones clears the last field. -/
theorem append_clear_last {a b : Nat} (x m : BitVec a) (y : BitVec b) :
    (x ++ y) &&& ~~~(m ++ BitVec.allOnes b) = (x &&& ~~~m) ++ 0#b := by
  rw [BitVec.not_append, BitVec.and_append, BitVec.not_allOnes, BitVec.and_zero]

/-- A mask that ends in zeros keeps the last field. -/
theorem append_keep_last {a b : Nat} (x m : BitVec a) (y : BitVec b) :
    (x ++ y) &&& ~~~(m ++ 0#b) = (x &&& ~~~m) ++ y := by
  rw [BitVec.not_append, BitVec.and_append, BitVec.not_zero, BitVec.and_allOnes]

/-- A mask of zeros clears nothing. -/
theorem keep_all {a : Nat} (x : BitVec a) : x &&& ~~~0#a = x := by rw [BitVec.not_zero, BitVec.and_allOnes]

section
variable (w : Command)

/-- A word is its fields as format P names them, one after the other. -/
theorem append_fields_formatP : opField w ++ w.extractLsb' 24 4 ++ cField w ++ aField w ++ bField w = w := by
  unfold opField cField aField bField
  rw [BitVec.extractLsb'_append_extractLsb'_eq_extractLsb' (by omega),
    BitVec.extractLsb'_append_extractLsb'_eq_extractLsb' (by omega),
    BitVec.extractLsb'_append_extractLsb'_eq_extractLsb' (by omega),
    BitVec.extractLsb'_append_extractLsb'_eq_extractLsb' (by omega)]
  exact BitVec.extractLsb'_eq_self

theorem append_fields_formatV : opField w ++ w.extractLsb' 16 12 ++ vField w = w := by
  unfold opField vField
  rw [BitVec.extractLsb'_append_extractLsb'_eq_extractLsb' (by omega),
    BitVec.extractLsb'_append_extractLsb'_eq_extractLsb' (by omega)]
  exact BitVec.extractLsb'_eq_self

theorem append_fields_formatK : opField w ++ w.extractLsb' 8 20 ++ kField w = w := by
  unfold opField kField
  rw [BitVec.extractLsb'_append_extractLsb'_eq_extractLsb' (by omega),
    BitVec.extractLsb'_append_extractLsb'_eq_extractLsb' (by omega)]
  exact BitVec.extractLsb'_eq_self

theorem append_fields_formatN : opField w ++ w.extractLsb' 0 28 = w := by
  unfold opField
  rw [BitVec.extractLsb'_append_extractLsb'_eq_extractLsb' (by omega)]
  exact BitVec.extractLsb'_eq_self

theorem clear_formatP : w &&& ~~~0x0F000000#32 = formatP (opField w) (cField w) (aField w) (bField w) :=
  calc w &&& ~~~0x0F000000#32
    _ = (opField w ++ w.extractLsb' 24 4 ++ cField w ++ aField w ++ bField w) &&&
        ~~~(0#4 ++ BitVec.allOnes 4 ++ 0#8 ++ 0#8 ++ 0#8) := by rw [append_fields_formatP]; rfl
    _ = formatP (opField w) (cField w) (aField w) (bField w) := by
      rw [append_keep_last, append_keep_last, append_keep_last, append_clear_last, keep_all]; rfl

/-- CRC8 ignores the C field of its format too (spec R67). -/
theorem clear_formatP_withoutC : w &&& ~~~0x0FFF0000#32 = formatP (opField w) 0 (aField w) (bField w) :=
  calc w &&& ~~~0x0FFF0000#32
    _ = (opField w ++ w.extractLsb' 24 4 ++ cField w ++ aField w ++ bField w) &&&
        ~~~(0#4 ++ BitVec.allOnes 4 ++ BitVec.allOnes 8 ++ 0#8 ++ 0#8) := by rw [append_fields_formatP]; rfl
    _ = formatP (opField w) 0 (aField w) (bField w) := by
      rw [append_keep_last, append_keep_last, append_clear_last, append_clear_last, keep_all]; rfl

theorem clear_formatV : w &&& ~~~0x0FFF0000#32 = formatV (opField w) (vField w) :=
  calc w &&& ~~~0x0FFF0000#32
    _ = (opField w ++ w.extractLsb' 16 12 ++ vField w) &&& ~~~(0#4 ++ BitVec.allOnes 12 ++ 0#16) := by
      rw [append_fields_formatV]; rfl
    _ = formatV (opField w) (vField w) := by rw [append_keep_last, append_clear_last, keep_all]; rfl

theorem clear_formatK : w &&& ~~~0x0FFFFF00#32 = formatK (opField w) (kField w) :=
  calc w &&& ~~~0x0FFFFF00#32
    _ = (opField w ++ w.extractLsb' 8 20 ++ kField w) &&& ~~~(0#4 ++ BitVec.allOnes 20 ++ 0#8) := by
      rw [append_fields_formatK]; rfl
    _ = formatK (opField w) (kField w) := by rw [append_keep_last, append_clear_last, keep_all]; rfl

theorem clear_formatN : w &&& ~~~0x0FFFFFFF#32 = formatN (opField w) :=
  calc w &&& ~~~0x0FFFFFFF#32
    _ = (opField w ++ w.extractLsb' 0 28) &&& ~~~(0#4 ++ BitVec.allOnes 28) := by rw [append_fields_formatN]; rfl
    _ = formatN (opField w) := by rw [append_clear_last, keep_all]; rfl

/-! ## Decoding against encoding (spec R52, R62) -/

/-- A word with the ignored bits of its command cleared is the command's own word. -/
theorem clear_ignoredMask_decode : w &&& ~~~ignoredMask (decode w) = encode (decode w) := by
  have hlt := (opField w).isLt
  unfold decode
  split
  case h_2 hop => exact (clear_formatP_withoutC w).trans (congrArg (formatP · _ _ _) (BitVec.eq_of_toNat_eq hop))
  case h_3 hop => exact (clear_formatP w).trans (congrArg (formatP · _ _ _) (BitVec.eq_of_toNat_eq hop))
  case h_4 hop => exact (clear_formatV w).trans (congrArg (formatV · _) (BitVec.eq_of_toNat_eq hop))
  case h_6 hop => exact (clear_formatK w).trans (congrArg (formatK · _) (BitVec.eq_of_toNat_eq hop))
  case h_16 =>
    have hop : (opField w).toNat = 15 := by
      simp only [imp_false] at *
      omega
    exact (clear_formatN w).trans (congrArg formatN (BitVec.eq_of_toNat_eq hop))
  all_goals
    next hop => exact (clear_formatN w).trans (congrArg formatN (BitVec.eq_of_toNat_eq hop))

/-- No command ignores a bit of OP. -/
theorem opField_clear_ignoredMask (i : Instr) : opField (w &&& ~~~ignoredMask i) = opField w := by
  cases i with
  | crc8 => exact (congrArg opField (clear_formatP_withoutC w)).trans (opField_formatP _ _ _ _)
  | check => exact (congrArg opField (clear_formatP w)).trans (opField_formatP _ _ _ _)
  | wenc => exact (congrArg opField (clear_formatV w)).trans (opField_formatV _ _)
  | extract => exact (congrArg opField (clear_formatK w)).trans (opField_formatK _ _)
  | wdec | reading | illegal0 | illegal7 | illegal8 | illegal9 | illegalA | illegalB | illegalC | illegalD | illegalE
  | illegalF => exact (congrArg opField (clear_formatN w)).trans (opField_formatN _)

theorem opField_encode_decode : opField (encode (decode w)) = opField w := by
  rw [← clear_ignoredMask_decode, opField_clear_ignoredMask]

end

/-- The ignored bits, from OP alone. -/
def ignoredBits (op : BitVec 4) : Command :=
  if op = 0x1 ∨ op = 0x3 then 0x0FFF0000 else if op = 0x2 then 0x0F000000
  else if op = 0x5 then 0x0FFFFF00 else 0x0FFFFFFF

theorem ignoredMask_eq_ignoredBits (i : Instr) : ignoredMask i = ignoredBits (opField (encode i)) := by
  cases i with
  | crc8 | check => rw [encode, opField_formatP]; rfl
  | wenc => rw [encode, opField_formatV]; rfl
  | extract => rw [encode, opField_formatK]; rfl
  | wdec | reading | illegal0 | illegal7 | illegal8 | illegal9 | illegalA | illegalB | illegalC | illegalD | illegalE
  | illegalF => rw [encode, opField_formatN]; rfl

/-- A word is a command's exactly when it is the command's word up to the ignored bits: OP says which bits those are. -/
theorem decode_eq_iff (w : Command) (i : Instr) : decode w = i ↔ w &&& ~~~ignoredMask i = encode i := by
  constructor
  · rintro rfl
    exact clear_ignoredMask_decode w
  · intro h
    have hop : opField (encode (decode w)) = opField (encode i) := by
      rw [opField_encode_decode, ← h, opField_clear_ignoredMask]
    have hmask : ignoredMask (decode w) = ignoredMask i := by
      rw [ignoredMask_eq_ignoredBits, hop, ← ignoredMask_eq_ignoredBits]
    apply encode_injective
    rw [← clear_ignoredMask_decode, hmask, h]

theorem encode_and_ignoredMask (i : Instr) : encode i &&& ignoredMask i = 0 := by
  have hclear : encode i &&& ~~~ignoredMask i = encode i := (decode_eq_iff _ _).1 (decode_encode i)
  rw [← hclear, BitVec.and_assoc, BitVec.not_and_self]
  exact BitVec.and_zero

/-! ## The rows of the opcode table (spec R53) -/

/-- Every command has a row, with its mnemonic and its OP. -/
theorem exists_row_of_instr (i : Instr) :
    ∃ r ∈ opcodeTable, r.mnemonic = i.mnemonic ∧ opField (encode i) = opField r.pattern := by
  cases i with
  | crc8 a b => exact Laws.EncodesInItsRow.crc8 a b
  | check a b c => exact Laws.EncodesInItsRow.check a b c
  | wenc v => exact Laws.EncodesInItsRow.wenc v
  | wdec => exact Laws.EncodesInItsRow.wdec
  | extract k => exact Laws.EncodesInItsRow.extract k
  | reading => exact Laws.EncodesInItsRow.reading
  | illegal0 => exact Laws.EncodesInItsRow.illegal0
  | illegal7 => exact Laws.EncodesInItsRow.illegal7
  | illegal8 => exact Laws.EncodesInItsRow.illegal8
  | illegal9 => exact Laws.EncodesInItsRow.illegal9
  | illegalA => exact Laws.EncodesInItsRow.illegalA
  | illegalB => exact Laws.EncodesInItsRow.illegalB
  | illegalC => exact Laws.EncodesInItsRow.illegalC
  | illegalD => exact Laws.EncodesInItsRow.illegalD
  | illegalE => exact Laws.EncodesInItsRow.illegalE
  | illegalF => exact Laws.EncodesInItsRow.illegalF

/-- Every row masks OP alone, and its pattern has 0 below it. -/
theorem row_mask_and_pattern :
    ∀ r ∈ opcodeTable, r.mask = ~~~0x0FFFFFFF#32 ∧ r.pattern = formatN (opField r.pattern) := by
  decide

/-- The rows have sixteen different OPs. -/
theorem opFields_nodup : (opcodeTable.map fun r => opField r.pattern).Nodup := by decide

theorem row_illegal_iff : ∀ r ∈ opcodeTable,
    (r.mnemonic = "ILLEGAL" ↔ (opField r.pattern).toNat = 0 ∨ 7 ≤ (opField r.pattern).toNat) := by decide

theorem row_eq_of_opField {r q : OpcodeRow} (hr : r ∈ opcodeTable) (hq : q ∈ opcodeTable)
    (h : opField r.pattern = opField q.pattern) : r = q :=
  List.inj_on_of_nodup_map opFields_nodup hr hq h

/-- A row selects a word by OP alone. -/
theorem selects_iff {r : OpcodeRow} (hr : r ∈ opcodeTable) (w : Command) :
    r.selects w = true ↔ opField w = opField r.pattern := by
  obtain ⟨hmask, hpattern⟩ := row_mask_and_pattern r hr
  rw [OpcodeRow.selects, hmask, clear_formatN, beq_iff_eq]
  constructor
  · intro h
    rw [← h, opField_formatN]
  · intro h
    rw [h, ← hpattern]

/-- The row of a word is the row of the command it decodes to. -/
theorem exists_row (w : Command) :
    ∃ r ∈ opcodeTable, r.mnemonic = (decode w).mnemonic ∧ opField w = opField r.pattern := by
  obtain ⟨r, hr, hname, hop⟩ := exists_row_of_instr (decode w)
  exact ⟨r, hr, hname, opField_encode_decode w ▸ hop⟩

theorem existsUnique_row (w : Command) : ∃! r, r ∈ opcodeTable ∧ r.selects w = true := by
  obtain ⟨r, hr, -, hop⟩ := exists_row w
  refine ⟨r, ⟨hr, (selects_iff hr w).2 hop⟩, fun q ⟨hq, hsel⟩ => ?_⟩
  exact row_eq_of_opField hq hr (((selects_iff hq w).1 hsel).symm.trans hop)

theorem mnemonic_of_selects {w : Command} {r : OpcodeRow} (hr : r ∈ opcodeTable) (h : r.selects w = true) :
    r.mnemonic = (decode w).mnemonic := by
  obtain ⟨q, hq, hname, hop⟩ := exists_row w
  rw [row_eq_of_opField hr hq (((selects_iff hr w).1 h).symm.trans hop), hname]

theorem decode_illegal_iff (w : Command) :
    (decode w).mnemonic = "ILLEGAL" ↔ (opField w).toNat = 0 ∨ 7 ≤ (opField w).toNat := by
  obtain ⟨r, hr, hname, hop⟩ := exists_row w
  rw [← hname, hop, row_illegal_iff r hr]

/-! ## The words of the assembler (spec R61, R63) -/

/-- A concatenation as a number. -/
theorem toNat_append_eq {a b : Nat} (x : BitVec a) (y : BitVec b) : (x ++ y).toNat = x.toNat * 2 ^ b + y.toNat := by
  rw [BitVec.toNat_append, ← Nat.shiftLeft_add_eq_or_of_lt y.isLt, Nat.shiftLeft_eq]

theorem toNat_formatP (op : BitVec 4) (c a b : Byte) :
    (formatP op c a b).toNat = op.toNat * 0x10000000 + c.toNat * 0x10000 + a.toNat * 0x100 + b.toNat := by
  simp only [formatP, toNat_append_eq, BitVec.toNat_zero]
  omega

theorem toNat_formatV (op : BitVec 4) (v : Word) : (formatV op v).toNat = op.toNat * 0x10000000 + v.toNat := by
  simp only [formatV, toNat_append_eq, BitVec.toNat_zero]
  omega

theorem toNat_formatK (op : BitVec 4) (k : Byte) : (formatK op k).toNat = op.toNat * 0x10000000 + k.toNat := by
  simp only [formatK, toNat_append_eq, BitVec.toNat_zero]
  omega

/-- A pseudo-instruction's V splits into a high and a low byte. -/
theorem pseudoHigh_eq {v : Nat} (hv : v ≤ 65535) : pseudoHigh v = BitVec.ofNat 8 (v / 256) := by
  apply BitVec.eq_of_toNat_eq
  simp only [pseudoHigh, BitVec.extractLsb'_toNat, BitVec.toNat_ofNat, Nat.shiftRight_eq_div_pow]
  omega

theorem pseudoLow_eq (v : Nat) : pseudoLow v = BitVec.ofNat 8 (v % 256) := by
  apply BitVec.eq_of_toNat_eq
  simp only [pseudoLow, BitVec.extractLsb'_toNat, BitVec.toNat_ofNat, Nat.shiftRight_zero]
  omega

/-- The assembler's word as a number, and its refusal of a line that is not well formed. -/
theorem assemble_toNat (c : AsmCommand) :
    c.assemble.map BitVec.toNat = if c.wellFormed then some (encode c.expand).toNat else none := by
  unfold AsmCommand.assemble
  rw [apply_ite (Option.map _)]
  rfl

theorem assemble_crc8 (a b : Nat) : (AsmCommand.crc8 a b).assemble.map BitVec.toNat =
    if a ≤ 255 ∧ b ≤ 255 then some (0x10000000 + 0x100 * a + b) else none := by
  rw [assemble_toNat]
  refine ite_congr (by simp [AsmCommand.wellFormed]) (fun _ => congrArg some ?_) fun _ => rfl
  simp only [AsmCommand.expand, encode, toNat_formatP, BitVec.ofNat_eq_ofNat, BitVec.toNat_ofNat]
  omega

theorem assemble_check (a b c : Nat) : (AsmCommand.check a b c).assemble.map BitVec.toNat =
    if a ≤ 255 ∧ b ≤ 255 ∧ c ≤ 255 then some (0x20000000 + 0x10000 * c + 0x100 * a + b) else none := by
  rw [assemble_toNat]
  refine ite_congr (by simp [AsmCommand.wellFormed, and_assoc]) (fun _ => congrArg some ?_) fun _ => rfl
  simp only [AsmCommand.expand, encode, toNat_formatP, BitVec.ofNat_eq_ofNat, BitVec.toNat_ofNat]
  omega

theorem assemble_wenc (v : Nat) : (AsmCommand.wenc v).assemble.map BitVec.toNat =
    if v ≤ 65535 then some (0x30000000 + v) else none := by
  rw [assemble_toNat]
  refine ite_congr (by simp [AsmCommand.wellFormed]) (fun _ => congrArg some ?_) fun _ => rfl
  simp only [AsmCommand.expand, encode, toNat_formatV, BitVec.ofNat_eq_ofNat, BitVec.toNat_ofNat]
  omega

theorem assemble_extract (k : Nat) : (AsmCommand.extract k).assemble.map BitVec.toNat =
    if k ≤ 255 then some (0x50000000 + k) else none := by
  rw [assemble_toNat]
  refine ite_congr (by simp [AsmCommand.wellFormed]) (fun _ => congrArg some ?_) fun _ => rfl
  simp only [AsmCommand.expand, encode, toNat_formatK, BitVec.ofNat_eq_ofNat, BitVec.toNat_ofNat]
  omega

/-- The assembler sees of a line its operands' ranges and the command it stands for. -/
theorem assemble_congr {c d : AsmCommand} (hwf : c.wellFormed = d.wellFormed) (hexpand : c.expand = d.expand) :
    c.assemble = d.assemble := by
  rw [AsmCommand.assemble, AsmCommand.assemble, hwf, hexpand]

theorem assemble_of_illFormed {c : AsmCommand} (h : c.wellFormed = false) : c.assemble = none := by
  rw [AsmCommand.assemble, h]
  rfl

theorem assemble_crc8w (v : Nat) : (AsmCommand.crc8w v).assemble =
    if v ≤ 65535 then (AsmCommand.crc8 (v / 256) (v % 256)).assemble else none := by
  split
  · next hv =>
    refine assemble_congr ?_ (by rw [AsmCommand.expand, AsmCommand.expand, pseudoHigh_eq hv, pseudoLow_eq])
    simp only [AsmCommand.wellFormed, ← Bool.decide_and, decide_eq_decide]
    omega
  · next hv => exact assemble_of_illFormed (decide_eq_false hv)

theorem assemble_checkw (v c : Nat) : (AsmCommand.checkw v c).assemble =
    if v ≤ 65535 then (AsmCommand.check (v / 256) (v % 256) c).assemble else none := by
  split
  · next hv =>
    refine assemble_congr ?_ (by rw [AsmCommand.expand, AsmCommand.expand, pseudoHigh_eq hv, pseudoLow_eq])
    simp only [AsmCommand.wellFormed, ← Bool.decide_and, decide_eq_decide]
    omega
  · next hv => exact assemble_of_illFormed (by simp [AsmCommand.wellFormed, hv])

end Sys2Proof

namespace Sys2Proof.Proofs

/-- Settles O1: the decoder reads the fields that the encoder fills. -/
theorem decodeInvertsEncode : Obligations.DecodeInvertsEncode := by
  unfold Obligations.DecodeInvertsEncode
  exact fun i _ => decode_encode i

/-- Settles O2: clearing ignored bits keeps OP, and OP fixes which bits are ignored. -/
theorem decodeIsEncodeUpToIgnoredBits : Obligations.DecodeIsEncodeUpToIgnoredBits := by
  unfold Obligations.DecodeIsEncodeUpToIgnoredBits
  exact ⟨decode_eq_iff, encode_and_ignoredMask⟩

/-- Settles O3: a row selects by OP, the rows have different OPs, and the decoded command of a word has a row. -/
theorem everyWordSelectsOneOpcodeRow : Obligations.EveryWordSelectsOneOpcodeRow := by
  unfold Obligations.EveryWordSelectsOneOpcodeRow
  exact ⟨existsUnique_row, fun _ _ hr h => mnemonic_of_selects hr h, fun w _ hr => selects_iff hr w,
    decode_illegal_iff⟩

/-- Settles O5: each format's word as a number, and the operands' ranges as the condition for a word. -/
theorem assemblerWordsAndRefusals : Obligations.AssemblerWordsAndRefusals := by
  unfold Obligations.AssemblerWordsAndRefusals
  exact ⟨assemble_crc8, assemble_check, assemble_wenc, rfl, assemble_extract, rfl, assemble_crc8w, assemble_checkw⟩

/-- Settles O4, by running the decoder on each word. -/
theorem writtenOutWordsDecode : Obligations.WrittenOutWordsDecode := by
  unfold Obligations.WrittenOutWordsDecode
  decide

end Sys2Proof.Proofs
end

section
/-! PROOF. Descriptors and the host directives: the fields of the `desc` word, the frame that `frame` loads, and the
bits of a descriptor that no command reads. -/

namespace Sys2Proof.Machine

/-! ## The word of the `desc` directive (spec R56, R64) -/

/-- The modes by their codes (spec R58). -/
theorem descMode_iff (d : Desc) :
    (descMode d = .float32 ↔ d.extractLsb' 10 2 = 0) ∧ (descMode d = .fixed ↔ d.extractLsb' 10 2 = 1) ∧
    (descMode d = .idiv ↔ d.extractLsb' 10 2 = 2) := by
  unfold descMode
  generalize d.extractLsb' 10 2 = code
  revert code
  decide

namespace DescLine

/-! Each field of the word is the operand the directive puts there. -/

variable (l : DescLine)

theorem word_off : l.word.extractLsb' 0 8 = l.off := by
  unfold DescLine.word
  rw [BitVec.extractLsb'_append_eq_of_add_le (by omega)]
  exact BitVec.extractLsb'_eq_self

theorem word_wcnt : l.word.extractLsb' 8 2 = l.wcnt := by
  unfold DescLine.word
  rw [BitVec.extractLsb'_append_eq_of_le (by omega), BitVec.extractLsb'_append_eq_of_add_le (by omega)]
  exact BitVec.extractLsb'_eq_self

theorem word_mode : l.word.extractLsb' 10 2 = l.mode := by
  unfold DescLine.word
  iterate 2 rw [BitVec.extractLsb'_append_eq_of_le (by omega)]
  rw [BitVec.extractLsb'_append_eq_of_add_le (by omega)]
  exact BitVec.extractLsb'_eq_self

theorem word_reservedLow : l.word.extractLsb' 12 4 = 0 := by
  unfold DescLine.word
  iterate 3 rw [BitVec.extractLsb'_append_eq_of_le (by omega)]
  rw [BitVec.extractLsb'_append_eq_of_add_le (by omega)]
  exact BitVec.extractLsb'_eq_self

theorem word_tag : l.word.extractLsb' 16 8 = l.tag := by
  unfold DescLine.word
  iterate 4 rw [BitVec.extractLsb'_append_eq_of_le (by omega)]
  rw [BitVec.extractLsb'_append_eq_of_add_le (by omega)]
  exact BitVec.extractLsb'_eq_self

theorem word_reservedHigh : l.word.extractLsb' 24 8 = 0 := by
  unfold DescLine.word
  iterate 5 rw [BitVec.extractLsb'_append_eq_of_le (by omega)]
  rw [BitVec.extractLsb'_append_eq_of_add_le (by omega)]
  exact BitVec.extractLsb'_eq_self

theorem word_scaleOrDiv : l.word.extractLsb' 32 16 = l.scaleOrDiv := by
  unfold DescLine.word
  iterate 6 rw [BitVec.extractLsb'_append_eq_of_le (by omega)]
  rw [BitVec.extractLsb'_append_eq_of_add_le (by omega)]
  exact BitVec.extractLsb'_eq_self

theorem word_offs : l.word.extractLsb' 48 16 = l.offs := by
  unfold DescLine.word
  iterate 7 rw [BitVec.extractLsb'_append_eq_of_le (by omega)]
  exact BitVec.extractLsb'_eq_self

end DescLine

/-! ## The `frame` directive (spec R64) -/

/-- The bytes of a list written to consecutive addresses. -/
def Memory.load (m : Memory) (n : Nat) : List Byte → Memory
  | [] => m
  | b :: bs => (m.write n b).load (n + 1) bs

/-- The loaded addresses read the bytes, every other address as before. -/
theorem Memory.read_load {m : Memory} (h : m.wf) (n : Nat) (bytes : List Byte) (a : Nat) :
    (m.load n bytes).read a = if n ≤ a ∧ a < n + bytes.length then bytes.getD (a - n) 0 else m.read a := by
  induction bytes generalizing m n with
  | nil => simp [Memory.load]
  | cons b bs ih =>
    rw [Memory.load, ih (Memory.wf_write h n b), Memory.read_write h]
    obtain hlt | rfl | hgt := Nat.lt_trichotomy a n
    · rw [if_neg (by omega), if_neg (by omega), if_neg (by omega)]
    · simp
    · obtain ⟨j, rfl⟩ := Nat.exists_eq_add_of_lt hgt
      have htail : n + j + 1 - n = (n + j + 1 - (n + 1)) + 1 := by omega
      rw [if_neg (by omega : n + j + 1 ≠ n), htail, List.getD_cons_succ]
      exact if_congr (by rw [List.length_cons]; omega) rfl rfl

/-- Accesses in two parts: the second starts where the first ends. -/
theorem performAll_append {s t : State} {es fs : List HostEvent} (h : performAll s es = .next t) :
    performAll s (es ++ fs) = performAll t fs := by
  induction es generalizing s with
  | nil => rw [← Host.Outcome.next.inj h, List.nil_append]
  | cons e es ih =>
    cases he : perform s e with
    | next u =>
      rw [performAll_cons_of_next he] at h
      rw [List.cons_append, performAll_cons_of_next he, ih h]
    | fault | refused => simp [performAll, he] at h

/-- The writes to consecutive frame bytes, from address `n` on. -/
theorem performAll_writeFb {s : State} (hp : s.params.legal) (n : Nat) (bytes : List Byte)
    (hfit : n + bytes.length ≤ s.params.maxFrameBytes) :
    performAll s ((bytes.zipIdx n).map fun b => writeEvent (.fb b.2) (b.1.setWidth 64)) =
      .next { s with fb := s.fb.load n bytes } := by
  induction bytes generalizing s n with
  | nil => rfl
  | cons b bs ih =>
    rw [List.length_cons] at hfit
    have hwrite : perform s (writeEvent (.fb n) (b.setWidth 64)) = .next (s.writeFb n b) := by
      have hreg : regAt s.params (Reg.fb n).port = some (.fb n) := regAt_port hp (decide_eq_true (by omega))
      rw [writeEvent, perform_write_of_regAt hreg, writeReg, BitVec.setWidth_setWidth_of_le _ (by omega),
        BitVec.setWidth_eq]
    have hrest : n + 1 + bs.length ≤ (s.writeFb n b).params.maxFrameBytes := by
      rw [State.writeFb_params]
      omega
    rw [List.zipIdx_cons, List.map_cons, performAll_cons_of_next hwrite]
    exact ih (s := s.writeFb n b) hp (n + 1) hrest

/-- A frame line's accesses load the frame and set its length. -/
theorem performAll_frameEvents {s : State} (h : s.Inv) {bytes : List Byte}
    (hfit : bytes.length ≤ s.params.maxFrameBytes) :
    performAll s (frameEvents bytes) =
      .next { s with fb := s.fb.load 0 bytes, flen := BitVec.ofNat 8 bytes.length } := by
  obtain ⟨-, hmax, -⟩ := h.params_legal
  rw [frameEvents, performAll_append (performAll_writeFb h.params_legal 0 bytes (by omega))]
  have hlen : (BitVec.ofNat 64 bytes.length).toNat % 256 = bytes.length := by
    rw [BitVec.toNat_ofNat]
    omega
  refine (performAll_cons_of_next ?_).trans rfl
  refine (perform_write_flen _ _).trans ?_
  rw [if_neg (by rw [hlen]; exact hfit.not_gt), ← BitVec.setWidth_eq_extractLsb' (by omega),
    BitVec.setWidth_ofNat_of_le (by omega)]

/-! ## The bits of a descriptor that no command reads (spec R60) -/

namespace SameUsedBits

variable {d e : Desc} (h : SameUsedBits d e)
include h

/-- Every slice of the bits [11:0] agrees. -/
theorem low_eq {start len : Nat} (hle : start + len ≤ 12) : e.extractLsb' start len = d.extractLsb' start len := by
  obtain ⟨hlow, -⟩ := h
  rw [← BitVec.extractLsb'_extractLsb'_of_le (x := e) hle, ← hlow, BitVec.extractLsb'_extractLsb'_of_le hle]

theorem descOff_eq : descOff e = descOff d := by rw [descOff, h.low_eq (by omega), descOff]

theorem descWcnt_eq : descWcnt e = descWcnt d := by rw [descWcnt, h.low_eq (by omega), descWcnt]

theorem descMode_eq : descMode e = descMode d := by rw [descMode, h.low_eq (by omega), descMode]

theorem descTag_eq : descTag e = descTag d := by
  obtain ⟨-, htag, -⟩ := h
  exact htag.symm

theorem descEnd_eq : descEnd e = descEnd d := by rw [descEnd, h.descOff_eq, h.descWcnt_eq, descEnd]

theorem descDiv_eq (hm : descMode d = .idiv) : descDiv e = descDiv d := by
  obtain ⟨-, -, hdiv, -⟩ := h
  exact (hdiv (.inr hm)).symm

theorem descScale_eq (hm : descMode d = .fixed) : descScale e = descScale d := by
  obtain ⟨-, -, hscale, -⟩ := h
  exact congrArg BitVec.toInt (hscale (.inl hm)).symm

theorem descOffs_eq (hm : descMode d = .fixed) : descOffs e = descOffs d := by
  obtain ⟨-, -, -, hoffs⟩ := h
  exact congrArg BitVec.toInt (hoffs hm).symm

/-- DIV is looked at in the IDIV mode alone (spec R76). -/
theorem structureFails_eq : structureFails e = structureFails d := by
  unfold structureFails
  rw [h.descOff_eq, h.descWcnt_eq, h.descMode_eq]
  cases hm : descMode d with
  | idiv => rw [h.descDiv_eq hm]
  | float32 | fixed | reserved => rfl

/-- Each mode looks at its own parameters alone (spec R59). -/
theorem decodeScalar_eq (ws : List Word) : decodeScalar e ws = decodeScalar d ws := by
  unfold decodeScalar
  rw [h.descMode_eq, h.descTag_eq]
  cases hm : descMode d with
  | fixed => rw [h.descScale_eq hm, h.descOffs_eq hm]
  | idiv => rw [h.descDiv_eq hm]
  | float32 | reserved => rfl

end SameUsedBits

/-- `s` with another descriptor table. -/
def State.withDesc (s : State) (ds : List Desc) : State := { s with desc := ds }

section
variable {s : State} {ds : List Desc}

@[simp] theorem State.withDesc_descAt (k : Nat) : (s.withDesc ds).descAt k = ds.getD k 0 := rfl
@[simp] theorem State.withDesc_fields : (s.withDesc ds).fields = s.fields := rfl

theorem frameFailure_withDesc : frameFailure (s.withDesc ds) = frameFailure s := rfl
theorem readGroups_withDesc : readGroups (s.withDesc ds) = readGroups s := rfl

variable (h : ∀ k, SameUsedBits (s.descAt k) (ds.getD k 0))
include h

theorem fieldFailure_withDesc (err : ErrCode) (k : Nat) :
    fieldFailure (s.withDesc ds) err k = fieldFailure s err k := by
  rw [fieldFailure, State.withDesc_descAt, (h k).descTag_eq, fieldFailure]

theorem configFailure_withDesc : configFailure (s.withDesc ds) = configFailure s := by
  funext k
  have hrange : rangeFails (s.withDesc ds) (ds.getD k 0) = rangeFails s (s.descAt k) := by
    rw [rangeFails, (h k).descEnd_eq]
    rfl
  simp only [configFailure, State.withDesc_descAt, (h k).structureFails_eq, hrange, fieldFailure_withDesc h]

theorem fieldWords_withDesc (k : Nat) : fieldWords (s.withDesc ds) k = fieldWords s k := by
  simp only [fieldWords, State.withDesc_descAt, (h k).descOff_eq, (h k).descWcnt_eq, readGroups_withDesc,
    fieldFailure_withDesc h]

theorem fieldDecode_withDesc (k : Nat) : fieldDecode (s.withDesc ds) k = fieldDecode s k := by
  simp only [fieldDecode, configFailure_withDesc h, fieldWords_withDesc h, State.withDesc_descAt,
    (h k).decodeScalar_eq]

theorem extractResult_withDesc (k : Byte) : extractResult k (s.withDesc ds) = extractResult k s := by
  rw [extractResult, frameFailure_withDesc, fieldDecode_withDesc h]
  rfl

theorem overlapFailure_withDesc : overlapFailure (s.withDesc ds) = overlapFailure s := by
  have hoverlaps (k j : Nat) : overlaps (ds.getD k 0) (ds.getD j 0) = overlaps (s.descAt k) (s.descAt j) := by
    rw [overlaps, (h k).descOff_eq, (h j).descOff_eq, (h k).descEnd_eq, (h j).descEnd_eq, overlaps]
  funext k
  simp only [overlapFailure, State.withDesc_descAt, hoverlaps, fieldFailure_withDesc h]

theorem coverageFailure_withDesc : coverageFailure (s.withDesc ds) = coverageFailure s := by
  have hspan : (s.withDesc ds).totalSpan = s.totalSpan := by
    simp only [State.totalSpan, State.withDesc_fields, State.withDesc_descAt, (h _).descWcnt_eq]
  rw [coverageFailure, hspan]
  rfl

theorem readingConfigFailure_withDesc : readingConfigFailure (s.withDesc ds) = readingConfigFailure s := by
  rw [readingConfigFailure, frameFailure_withDesc, configFailure_withDesc h, overlapFailure_withDesc h,
    coverageFailure_withDesc h, State.withDesc_fields, readingConfigFailure]

theorem checkFields_withDesc (ks : List Nat) : checkFields (s.withDesc ds) ks = checkFields s ks := by
  induction ks with
  | nil => rfl
  | cons k ks ih => simp only [checkFields, fieldWords_withDesc h, ih]

theorem stageFields_withDesc (ks : List Nat) : stageFields (s.withDesc ds) ks = stageFields s ks := by
  induction ks with
  | nil => rfl
  | cons k ks ih => simp only [stageFields, fieldDecode_withDesc h, ih]

theorem readingResult_withDesc : readingResult (s.withDesc ds) = readingResult s := by
  rw [readingResult, readingConfigFailure_withDesc h, State.withDesc_fields, checkFields_withDesc h,
    stageFields_withDesc h, readingResult]

/-- A command reads of the descriptors only the bits their modes use, and writes none of them. -/
theorem exec_withDesc (i : Instr) :
    exec i (s.withDesc ds) = mapNext (fun t => { t with desc := ds }) (exec i s) := by
  cases i with
  | wdec =>
    show execWdec (s.withDesc ds) = mapNext _ (execWdec s)
    unfold execWdec
    rw [apply_ite (mapNext _)]
    rfl
  | extract k =>
    show execExtract k (s.withDesc ds) = mapNext _ (execExtract k s)
    unfold execExtract
    rw [extractResult_withDesc h]
    cases extractResult k s <;> rfl
  | reading =>
    show execReading (s.withDesc ds) = mapNext _ (execReading s)
    unfold execReading
    rw [readingResult_withDesc h]
    cases readingResult s <;> rfl
  | crc8 | check | wenc | illegal0 | illegal7 | illegal8 | illegal9 | illegalA | illegalB | illegalC | illegalD
  | illegalE | illegalF => rfl

end

end Sys2Proof.Machine

namespace Sys2Proof.Proofs
open Sys2Proof.Machine

/-- Settles O44: a write to DESC[k] keeps all 64 bits, and the checks and the modes read only the bits they use. -/
theorem unusedDescriptorBitsHaveNoEffect : Obligations.UnusedDescriptorBitsHaveNoEffect := by
  unfold Obligations.UnusedDescriptorBitsHaveNoEffect
  refine ⟨fun s k d h hk => ?_, fun i _ _ h => exec_withDesc h i⟩
  obtain ⟨-, hwrite, -⟩ := descriptorTableIsTheHosts
  obtain ⟨t, ht, hread, -⟩ := hwrite s k d h hk
  exact ⟨t, ht, hread⟩

/-- Settles O6: each operand is a slice of the concatenation that `DescLine.word` is. -/
theorem descDirectivePlacesTheFields : Obligations.DescDirectivePlacesTheFields := by
  unfold Obligations.DescDirectivePlacesTheFields
  intro l
  obtain ⟨hfloat, hfixed, hidiv⟩ := descMode_iff l.word
  rw [l.word_mode] at hfloat hfixed hidiv
  exact ⟨congrArg BitVec.toNat l.word_off, congrArg BitVec.toNat l.word_wcnt, l.word_tag, l.word_scaleOrDiv,
    congrArg BitVec.toInt l.word_scaleOrDiv, congrArg BitVec.toInt l.word_offs, hfloat, hfixed, hidiv,
    l.word_reservedLow, l.word_reservedHigh⟩

/-- Settles O22, by induction on the bytes: each lands at the next address, and the last write is FLEN's. -/
theorem frameDirectiveLoadsTheFrame : Obligations.FrameDirectiveLoadsTheFrame := by
  unfold Obligations.FrameDirectiveLoadsTheFrame
  intro s bytes h hfit
  obtain ⟨-, hmax, -⟩ := h.params_legal
  refine ⟨frameEvents bytes, if_pos hfit, _, performAll_frameEvents h hfit, ?_, fun a => ?_, rfl⟩
  · rw [BitVec.toNat_ofNat]
    omega
  · simpa using Memory.read_load h.fb_wf 0 bytes a

end Sys2Proof.Proofs
end

section
/-! PROOF. The checksum: a round is a bijection, the checksum is affine, and a change of a valid group shows in its
remainder modulo the CRC polynomial, which decides what the checksum detects. -/

namespace Sys2Proof.Machine

/-! ## The running register undone (spec R65, R66 items 1 and 2) -/

/-- The polynomial has a constant term, so a round moves the top bit to the lowest place. -/
theorem crcRound_getLsbD_zero (r : Byte) : (crcRound r).getLsbD 0 = r.getLsbD 7 := by
  rw [crcRound_eq]
  cases r.getLsbD 7 <;> simp [Config.crcPoly]

theorem crcRound_injective : Function.Injective crcRound := by
  intro r q h
  have htop : r.getLsbD 7 = q.getLsbD 7 := by rw [← crcRound_getLsbD_zero, h, crcRound_getLsbD_zero]
  have hshift : r <<< 1 = q <<< 1 := by rwa [crcRound_eq, crcRound_eq, htop, BitVec.xor_left_inj] at h
  refine BitVec.eq_of_getLsbD_eq fun i hi => ?_
  obtain rfl | hlt : i = 7 ∨ i + 1 < 8 := by omega
  · exact htop
  · simpa [hlt, hi] using congrArg (·.getLsbD (i + 1)) hshift

theorem crcRounds_bijective (n : Nat) : Function.Bijective (crcRounds n) := by
  induction n with
  | zero => exact Function.bijective_id
  | succ n ih => exact ih.comp (Finite.injective_iff_bijective.1 crcRound_injective)

theorem crcRounds_injective (n : Nat) : Function.Injective (crcRounds n) := (crcRounds_bijective n).injective

theorem crcByte_bijective_byte (r : Byte) : Function.Bijective (crcByte r) :=
  (crcRounds_bijective 8).comp (xor_right_involutive r).bijective

theorem crcByte_bijective_register (x : Byte) : Function.Bijective fun r => crcByte r x :=
  (crcRounds_bijective 8).comp (xor_left_involutive x).bijective

/-- Feeding the register its own value clears it (spec R66 item 1). -/
theorem crcRun_crc8 (a b : Byte) : crcRun [a, b, crc8 a b] = 0 := crcByte_self (crc8 a b)

/-! ## The checksum is affine (spec R66 item 3) -/

/-- A change of the bytes changes the checksum by the change run from a zero register. -/
theorem crc8_xor (a b d e : Byte) : crc8 (a ^^^ d) (b ^^^ e) = crc8 a b ^^^ crcByte (crcByte 0 d) e := by
  rw [crc8_eq, crc8_eq, ← crcByte_xor, ← crcByte_xor, xor_zero]

theorem crc8_affine (a b d e : Byte) : crc8 (a ^^^ d) (b ^^^ e) = crc8 a b ^^^ crc8 d e ^^^ crc8 0 0 := by
  have hzero : crc8 d e = crc8 0 0 ^^^ crcByte (crcByte 0 d) e := by
    rw [← crc8_xor, zero_xor, zero_xor]
  rw [crc8_xor, hzero, BitVec.xor_assoc, xor_xor_cancel_comm]

theorem crc8_zero_zero : crc8 0 0 = 0x81 := by decide +kernel

/-! ## The remainder of a change (spec R66 item 4)

A change `e` of a group is a polynomial of degree below 24, its high bit first. The group stays valid exactly when the
CRC polynomial divides `e`. -/

/-- The remainder of `r * x^8 + y`. -/
def shiftInByte (r y : Byte) : Byte := crcRounds 8 r ^^^ y

/-- The remainder of a change of the 24 bits modulo the CRC polynomial, byte by byte. -/
def remainder (e : BitVec 24) : Byte :=
  shiftInByte (shiftInByte (e.extractLsb' 16 8) (e.extractLsb' 8 8)) (e.extractLsb' 0 8)

theorem shiftInByte_xor (r q y z : Byte) : shiftInByte (r ^^^ q) (y ^^^ z) = shiftInByte r y ^^^ shiftInByte q z := by
  unfold shiftInByte
  rw [crcRounds_xor]
  ac_rfl

theorem remainder_xor (e f : BitVec 24) : remainder (e ^^^ f) = remainder e ^^^ remainder f := by
  simp only [remainder, BitVec.extractLsb'_xor, shiftInByte_xor]

theorem shiftInByte_eq_zero_iff {r y : Byte} : shiftInByte r y = 0 ↔ crcRounds 8 r = y := xor_eq_zero_iff

theorem shiftInByte_zero (y : Byte) : shiftInByte 0 y = y := by rw [shiftInByte, crcRounds_zero, zero_xor]

theorem remainder_zero : remainder 0 = 0 := by
  rw [← xor_self (0 : BitVec 24), remainder_xor]
  exact xor_self _

/-- The change of the bytes and the change of their checksum must agree. -/
theorem changedGroup_ok_iff (a b : Byte) (e : BitVec 24) :
    (changedGroup (validGroup a b) e).ok = true ↔ remainder e = 0 := by
  have hbytes : crcByte (crcByte 0 (e.extractLsb' 16 8)) (e.extractLsb' 8 8) =
      crcRounds 8 (shiftInByte (e.extractLsb' 16 8) (e.extractLsb' 8 8)) := by
    rw [crcByte, crcByte, zero_xor, shiftInByte]
  rw [Group.ok_iff, changedGroup, validGroup, crc8_xor, BitVec.xor_right_inj, hbytes, remainder,
    shiftInByte_eq_zero_iff]

theorem changedGroup_not_ok (a b : Byte) {e : BitVec 24} (h : remainder e ≠ 0) :
    (changedGroup (validGroup a b) e).ok = false := by
  rwa [← Bool.not_eq_true, changedGroup_ok_iff]

/-! ### A change moved up by one position is multiplied by `x` -/

/-- A bit as the lowest bit of a byte. -/
def carryBit (t : Bool) : Byte := if t then 1 else 0

theorem crcRounds_crcRound (n : Nat) (r : Byte) : crcRounds n (crcRound r) = crcRound (crcRounds n r) := by
  induction n generalizing r with
  | zero => rfl
  | succ n ih => exact ih (crcRound r)

theorem crcRounds_add (m n : Nat) (r : Byte) : crcRounds (m + n) r = crcRounds m (crcRounds n r) := by
  induction m with
  | zero => rw [Nat.zero_add]; rfl
  | succ m ih => rw [Nat.add_right_comm, crcRounds, crcRounds, crcRounds_crcRound, crcRounds_crcRound, ih]

/-- The polynomial is what the bit shifted out leaves after eight rounds. -/
theorem shiftLeft_eq_crcRound_xor (r : Byte) : r <<< 1 = crcRound r ^^^ crcRounds 8 (carryBit (r.getLsbD 7)) := by
  have hpoly : crcRounds 8 1 = Config.crcPoly := by decide
  rw [crcRound_eq]
  cases r.getLsbD 7
  · exact (xor_cancel_right _ _).symm
  · rw [carryBit, if_pos rfl, if_pos rfl, hpoly, xor_cancel_right]

/-- Shifting both bytes, the carry between them included, is a round; a bit shifted in below stays. -/
theorem shiftInByte_shiftLeft (r y : Byte) (t : Bool) :
    shiftInByte (crcRound r ^^^ carryBit (y.getLsbD 7)) (y <<< 1 ^^^ carryBit t) =
      crcRound (shiftInByte r y) ^^^ carryBit t := by
  rw [shiftInByte, shiftInByte, crcRounds_xor, crcRounds_crcRound, shiftLeft_eq_crcRound_xor, crcRound_xor]
  generalize crcRounds 8 (carryBit (y.getLsbD 7)) = carry
  calc crcRound (crcRounds 8 r) ^^^ carry ^^^ (crcRound y ^^^ carry ^^^ carryBit t)
    _ = crcRound (crcRounds 8 r) ^^^ crcRound y ^^^ carryBit t ^^^ carry ^^^ carry := by ac_rfl
    _ = crcRound (crcRounds 8 r) ^^^ crcRound y ^^^ carryBit t := xor_cancel_right _ _

/-- The lowest byte of the shifted change has nothing below it. -/
theorem extractLsb'_zero_shiftLeft_one (e : BitVec 24) :
    (e <<< 1).extractLsb' 0 8 = e.extractLsb' 0 8 <<< 1 ^^^ carryBit false := by
  refine (BitVec.eq_of_getLsbD_eq fun i hi => ?_).trans (xor_zero _).symm
  cases i with
  | zero => simp
  | succ i => simp [hi, show i + 1 < 24 by omega, show i < 8 by omega, -BitVec.getLsbD_eq_getElem]

/-- A higher byte of the shifted change: the byte shifted, and the bit below it. -/
theorem extractLsb'_succ_shiftLeft_one (e : BitVec 24) {n : Nat} (hn : n < 16) :
    (e <<< 1).extractLsb' (n + 1) 8 = e.extractLsb' (n + 1) 8 <<< 1 ^^^ carryBit (e.getLsbD n) := by
  refine BitVec.eq_of_getLsbD_eq fun i hi => ?_
  have hin : n + 1 + i < 24 := by omega
  cases i with
  | zero => cases h : e.getLsbD n <;> simp [carryBit, h, hin, -BitVec.getLsbD_eq_getElem]
  | succ i =>
    have hpred : n + 1 + (i + 1) - 1 = n + 1 + i := by omega
    cases e.getLsbD n <;> simp [carryBit, hi, hin, hpred, show i < 8 by omega, -BitVec.getLsbD_eq_getElem]

theorem remainder_shiftLeft_one {e : BitVec 24} (h : e.msb = false) :
    remainder (e <<< 1) = crcRound (remainder e) := by
  have hhigh : e.extractLsb' 16 8 <<< 1 = crcRound (e.extractLsb' 16 8) := by
    have htop : (e.extractLsb' 16 8).getLsbD 7 = false := by simpa [BitVec.msb_eq_getLsbD_last] using h
    rw [crcRound, htop]
    rfl
  have hmid : e.getLsbD 15 = (e.extractLsb' 8 8).getLsbD 7 := by simp
  have hlow : e.getLsbD 7 = (e.extractLsb' 0 8).getLsbD 7 := by simp
  rw [remainder, extractLsb'_succ_shiftLeft_one e (n := 15) (by omega), hhigh, hmid,
    extractLsb'_succ_shiftLeft_one e (n := 7) (by omega), hlow, extractLsb'_zero_shiftLeft_one,
    shiftInByte_shiftLeft, shiftInByte_shiftLeft]
  exact xor_zero _

/-- A change moved up by `n` positions inside the group. -/
theorem remainder_shiftLeft {e : BitVec 24} {n : Nat} (h : e.toNat * 2 ^ n < 2 ^ 24) :
    remainder (e <<< n) = crcRounds n (remainder e) := by
  induction n with
  | zero => rw [BitVec.shiftLeft_zero, crcRounds]
  | succ n ih =>
    rw [pow_succ, ← mul_assoc] at h
    have hmsb : (e <<< n).msb = false := by
      rw [BitVec.msb_eq_false_iff_two_mul_lt, BitVec.toNat_shiftLeft, Nat.shiftLeft_eq, Nat.mod_eq_of_lt (by omega)]
      omega
    rw [BitVec.shiftLeft_add, remainder_shiftLeft_one hmsb, ih (by omega), crcRounds, crcRounds_crcRound]

/-- A change inside the checksum byte is its own remainder. -/
theorem remainder_setWidth (b : Byte) : remainder (b.setWidth 24) = b := by
  have hhigh (n : Nat) (hn : 8 ≤ n) : (b.setWidth 24).extractLsb' n 8 = 0 := by
    refine BitVec.eq_of_getLsbD_eq fun i hi => ?_
    simp [BitVec.getLsbD_of_ge b (n + i) (by omega), -BitVec.getLsbD_eq_getElem]
  have hlow : (b.setWidth 24).extractLsb' 0 8 = b := by
    rw [← BitVec.setWidth_eq_extractLsb' (by omega), BitVec.setWidth_setWidth_of_le _ (by omega), BitVec.setWidth_eq]
  rw [remainder, hhigh 16 (by omega), hhigh 8 (by omega), hlow, shiftInByte_zero, shiftInByte_zero]

/-- A burst: a byte moved up inside the group. -/
theorem remainder_burst (b : Byte) {shift : Nat} (h : shift ≤ 16) :
    remainder (b.setWidth 24 <<< shift) = crcRounds shift b := by
  have hfit : b.toNat * 2 ^ shift < 2 ^ 8 * 2 ^ 16 :=
    Nat.mul_lt_mul_of_lt_of_le b.isLt (Nat.pow_le_pow_right (by omega) h) (by omega)
  rw [remainder_shiftLeft (by rwa [BitVec.toNat_setWidth_of_le (by omega)]), remainder_setWidth]

theorem remainder_bit {p : Nat} (h : p < 24) : remainder (1#24 <<< p) = crcRounds p 1 := by
  have hone : remainder 1#24 = 1 := remainder_setWidth 1
  have hpow : 2 ^ p < 2 ^ 24 := Nat.pow_lt_pow_right (by omega) h
  rw [remainder_shiftLeft (by simpa using hpow), hone]

/-- Every nonzero pattern inside 8 consecutive bits leaves a remainder. -/
theorem remainder_burst_ne_zero {b : Byte} {shift : Nat} (hb : b ≠ 0) (h : shift ≤ 16) :
    remainder (b.setWidth 24 <<< shift) ≠ 0 := by
  rw [remainder_burst b h, ← crcRounds_zero shift]
  exact (crcRounds_injective shift).ne hb

/-! ### Changes listed by their positions -/

/-- The exclusive or of a list of bytes. -/
def xorSum (xs : List Byte) : Byte := xs.foldr (· ^^^ ·) 0

/-- The remainder of the change of each listed position alone: powers of `x`. -/
def positionRemainders (ps : List Nat) : List Byte := ps.map fun p => crcRounds p 1

theorem remainder_foldl (ps : List Nat) (h : ∀ p ∈ ps, p < 24) (e : BitVec 24) :
    remainder (ps.foldl (fun e p => e ^^^ (1#24 <<< p)) e) = remainder e ^^^ xorSum (positionRemainders ps) := by
  induction ps generalizing e with
  | nil => exact (xor_zero _).symm
  | cons p ps ih =>
    obtain ⟨hp, hps⟩ := List.forall_mem_cons.1 h
    rw [List.foldl_cons, ih hps, remainder_xor, remainder_bit hp, BitVec.xor_assoc]
    rfl

theorem remainder_changeAt {ps : List Nat} (h : ∀ p ∈ ps, p < 24) :
    remainder (changeAt ps) = xorSum (positionRemainders ps) := by
  rw [changeAt, remainder_foldl ps h, remainder_zero, zero_xor]

/-! ### The CRC polynomial has an even number of terms: an odd number of changed bits leaves an odd remainder -/

/-- The parity of a remainder: is the number of ones among the `n` lowest bits odd? -/
def oddOnes : Nat → Byte → Bool
  | 0, _ => false
  | n + 1, r => r.getLsbD n ^^ oddOnes n r

theorem oddOnes_xor (n : Nat) (r q : Byte) : oddOnes n (r ^^^ q) = (oddOnes n r ^^ oddOnes n q) := by
  induction n with
  | zero => rfl
  | succ n ih =>
    rw [oddOnes, oddOnes, oddOnes, ih, BitVec.getLsbD_xor]
    simp only [Bool.xor_assoc, Bool.xor_left_comm]

theorem oddOnes_shiftLeft_one {n : Nat} (h : n < 8) (r : Byte) : oddOnes (n + 1) (r <<< 1) = oddOnes n r := by
  induction n with
  | zero => simp [oddOnes]
  | succ n ih =>
    rw [oddOnes, ih (by omega), oddOnes, BitVec.getLsbD_shiftLeft]
    simp [h]

/-- The polynomial with its top term has an even number of terms, so a round keeps the parity. -/
theorem oddOnes_crcRound (r : Byte) : oddOnes 8 (crcRound r) = oddOnes 8 r := by
  have hpoly : oddOnes 8 Config.crcPoly = true := by decide
  have htop : oddOnes 8 r = (r.getLsbD 7 ^^ oddOnes 7 r) := rfl
  rw [crcRound_eq, oddOnes_xor, oddOnes_shiftLeft_one (by omega), htop, Bool.xor_comm]
  cases r.getLsbD 7
  · rfl
  · rw [if_pos rfl, hpoly]

theorem oddOnes_crcRounds (n : Nat) (r : Byte) : oddOnes 8 (crcRounds n r) = oddOnes 8 r := by
  induction n generalizing r with
  | zero => rfl
  | succ n ih => rw [crcRounds, ih, oddOnes_crcRound]

theorem oddOnes_positionRemainders (ps : List Nat) :
    oddOnes 8 (xorSum (positionRemainders ps)) = ps.length.bodd := by
  induction ps with
  | nil => rfl
  | cons p ps ih =>
    have hone : oddOnes 8 (crcRounds p 1) = true := oddOnes_crcRounds p 1
    rw [List.length_cons, Nat.bodd_succ, ← ih]
    exact (oddOnes_xor 8 _ _).trans (by rw [hone, Bool.true_xor]; rfl)

theorem positionRemainders_odd_ne_zero {ps : List Nat} (h : ps.length.bodd = true) :
    xorSum (positionRemainders ps) ≠ 0 := by
  intro hzero
  have hodd := oddOnes_positionRemainders ps
  rw [hzero, h] at hodd
  exact absurd hodd (by decide)

/-- The powers of `x` below 24 are different (spec R66 item 4, changes of 2 bits). -/
theorem positionRemainders_pair_ne_zero {p q : Nat} (hlt : p < q) (hq : q < 24) :
    xorSum (positionRemainders [p, q]) ≠ 0 := by
  intro hzero
  obtain ⟨d, rfl⟩ := Nat.exists_eq_add_of_lt hlt
  have heq : crcRounds p 1 = crcRounds (p + (d + 1)) 1 := by
    rw [← xor_eq_zero_iff]
    simpa [xorSum, positionRemainders, Nat.add_assoc] using hzero
  rw [crcRounds_add] at heq
  have hone : ∀ d < 23, (1 : Byte) ≠ crcRounds (d + 1) 1 := by decide
  exact hone d (by omega) (crcRounds_injective p heq)

/-- Every change of 1, 2 or 3 bits leaves a remainder. -/
theorem remainder_changeAt_ne_zero {ps : List Nat} (hsorted : ps.Pairwise (· < ·)) (hps : ∀ p ∈ ps, p < 24)
    (hpos : 1 ≤ ps.length) (hle : ps.length ≤ 3) : remainder (changeAt ps) ≠ 0 := by
  rw [remainder_changeAt hps]
  match ps, hpos, hle with
  | [p], _, _ => exact positionRemainders_odd_ne_zero (by simp)
  | [p, q], _, _ => exact positionRemainders_pair_ne_zero (by simpa using hsorted) (hps q (by simp))
  | [p, q, r], _, _ => exact positionRemainders_odd_ne_zero (by simp)

/-! ### Counting the undetected changes of 4 bits -/

/-- How many sublists of length `k` have the sum `t`. -/
def countSums : Nat → List Byte → Byte → Nat
  | 0, _, t => if t = 0 then 1 else 0
  | _ + 1, [], _ => 0
  | k + 1, x :: xs, t => countSums (k + 1) xs t + countSums k xs (x ^^^ t)

theorem countP_sublistsLen_zero (ps : List Nat) (t : Byte) :
    ((ps.sublistsLen 0).countP fun qs => xorSum (positionRemainders qs) = t) =
      countSums 0 (positionRemainders ps) t := by
  rw [List.sublistsLen_zero, List.countP_singleton, countSums]
  exact if_congr (decide_eq_true_iff.trans eq_comm) rfl rfl

/-- A change either keeps the first position, and the rest makes up for it, or leaves it out. -/
theorem countP_sublistsLen (k : Nat) (ps : List Nat) (t : Byte) :
    ((ps.sublistsLen k).countP fun qs => xorSum (positionRemainders qs) = t) =
      countSums k (positionRemainders ps) t := by
  induction ps generalizing k t with
  | nil =>
    cases k with
    | zero => exact countP_sublistsLen_zero _ t
    | succ k => rfl
  | cons p ps ih =>
    cases k with
    | zero => exact countP_sublistsLen_zero _ t
    | succ k =>
      have hkeep : (fun qs => decide (xorSum (positionRemainders qs) = t)) ∘ List.cons p =
          fun qs => decide (xorSum (positionRemainders qs) = crcRounds p 1 ^^^ t) :=
        funext fun qs => decide_eq_decide.2 (xor_eq_iff_right_eq _ _ _)
      rw [List.sublistsLen_succ_cons, List.countP_append, List.countP_map, hkeep, ih, ih]
      rfl

/-- Four powers of `x` below 24 with the sum 0, by running the count. -/
theorem countSums_positionRemainders : countSums 4 (positionRemainders (List.range 24)) 0 = 80 := by decide +kernel

/-- The undetected changes of 4 bits are the sets of 4 powers of `x` with the sum 0. -/
theorem length_filter_changedGroup_ok (a b : Byte) (k : Nat) :
    (((List.range 24).sublistsLen k).filter fun ps => (changedGroup (validGroup a b) (changeAt ps)).ok).length =
      countSums k (positionRemainders (List.range 24)) 0 := by
  rw [← countP_sublistsLen, ← List.countP_eq_length_filter]
  refine List.countP_congr fun ps hps => ?_
  obtain ⟨hsub, -⟩ := List.mem_sublistsLen.1 hps
  have hlt : ∀ p ∈ ps, p < 24 := fun p hp => List.mem_range.1 (hsub.subset hp)
  rw [changedGroup_ok_iff, remainder_changeAt hlt, decide_eq_true_iff]

end Sys2Proof.Machine

namespace Sys2Proof.Proofs
open Sys2Proof.Machine

/-- Settles O23: equal bytes cancel in the register, a round is a bijection, and the register is linear. -/
theorem checksumResidueBijectionAffinity : Obligations.ChecksumResidueBijectionAffinity := by
  unfold Obligations.ChecksumResidueBijectionAffinity
  refine ⟨crcRun_crc8, fun a => crcByte_bijective_byte _, fun b => ?_, fun a b d e => crc8_affine a b d e,
    crc8_zero_zero⟩
  exact (crcByte_bijective_register b).comp (crcByte_bijective_byte Config.crcInit)

/-- Settles O24: a changed group is valid exactly when the change leaves no remainder. An odd number of bits leaves an
odd one, two bits leave two different powers of `x`, and a burst leaves a byte put through a bijection. -/
theorem checksumDetectsSmallChanges : Obligations.ChecksumDetectsSmallChanges := by
  unfold Obligations.ChecksumDetectsSmallChanges
  refine ⟨fun a b ps hsorted hps hpos hle => ?_, fun a b burst shift hb hshift => ?_, fun a b => ?_⟩
  · exact changedGroup_not_ok a b (remainder_changeAt_ne_zero hsorted hps hpos hle)
  · exact changedGroup_not_ok a b (remainder_burst_ne_zero hb hshift)
  · rw [length_filter_changedGroup_ok, countSums_positionRemainders]

end Sys2Proof.Proofs
end

section
/-! PROOF. The checksum commands: the words of format P, and what CRC8 and CHECK write and leave. -/

namespace Sys2Proof

/-- A word of format P as its fields, each shifted to its place (spec R51). -/
theorem formatP_eq_or (op : BitVec 4) (c a b : Byte) : formatP op c a b =
    op.setWidth 32 <<< 28 ||| c.setWidth 32 <<< 16 ||| a.setWidth 32 <<< 8 ||| b.setWidth 32 := by
  rw [← BitVec.setWidth_eq (formatP op c a b), formatP,
    BitVec.setWidth_append_append_append_eq_shiftLeft_setWidth_or, BitVec.setWidth_append_eq_shiftLeft_setWidth_or]
  simp [← BitVec.shiftLeft_add]

theorem assemble_of_wellFormed {c : AsmCommand} (h : c.wellFormed = true) : c.assemble = some (encode c.expand) :=
  if_pos h

theorem Byte.toNat_le (b : Byte) : b.toNat ≤ 255 := by omega

theorem assemble_crc8_word (a b : Byte) :
    (AsmCommand.crc8 a.toNat b.toNat).assemble = some (0x10000000 ||| a.setWidth 32 <<< 8 ||| b.setWidth 32) := by
  rw [assemble_of_wellFormed (by simp [AsmCommand.wellFormed, Byte.toNat_le]), AsmCommand.expand, encode,
    formatP_eq_or]
  simp

theorem assemble_check_word (a b c : Byte) : (AsmCommand.check a.toNat b.toNat c.toNat).assemble =
    some (0x20000000 ||| c.setWidth 32 <<< 16 ||| a.setWidth 32 <<< 8 ||| b.setWidth 32) := by
  rw [assemble_of_wellFormed (by simp [AsmCommand.wellFormed, Byte.toNat_le]), AsmCommand.expand, encode,
    formatP_eq_or]
  simp

theorem decode_crc8_of_opField {w : Command} (h : w.extractLsb' 28 4 = 0x1) :
    decode w = .crc8 (w.extractLsb' 8 8) (w.extractLsb' 0 8) := by
  rw [decode, opField, h]
  rfl

theorem decode_check_of_opField {w : Command} (h : w.extractLsb' 28 4 = 0x2) :
    decode w = .check (w.extractLsb' 8 8) (w.extractLsb' 0 8) (w.extractLsb' 16 8) := by
  rw [decode, opField, h]
  rfl

end Sys2Proof

namespace Sys2Proof.Machine

/-- A command that completes has the frame of its footprint. -/
theorem runsTo_footprint {i : Instr} {s t : State} (h : exec i s = .next t) : RunsTo i s t (footprint s.params i) :=
  ⟨h, Proofs.commandsWriteOnlyTheirFootprint i s t h⟩

section
variable (a b c : Byte) (s : State)

theorem exec_crc8 : exec (.crc8 a b) s = .next ((s.setCrcOut (crc8 a b)).finishOk true) := rfl

theorem exec_check : exec (.check a b c) s = .next ((s.setCrcOut (crc8 a b)).finishOk (decide (crc8 a b = c))) := rfl

end

/-- The example of R67 and R68. -/
theorem crc8_beef : crc8 0xBE 0xEF = 0x92 := by decide +kernel

theorem exec_check_beef (c : Byte) (s : State) : exec (.check 0xBE 0xEF c) s =
    .next { s with crcOut := 0x92, status := ⟨.ok, decide ((0x92 : Byte) = c), 0, 0⟩ } := by
  rw [exec_check, crc8_beef]
  rfl

theorem statusWord_finishOk {s : State} (h : s.rvalid = false) : (s.finishOk true).statusWord = 0x00000010 := by
  rw [State.statusWord, State.finishOk_status, State.finishOk_rvalid, h]
  decide

end Sys2Proof.Machine

namespace Sys2Proof.Proofs
open Sys2Proof.Machine

/-- Settles O25: CRC8 is an update of CRC_OUT and STATUS. -/
theorem crc8Command : Obligations.Crc8Command := by
  unfold Obligations.Crc8Command
  refine ⟨assemble_crc8_word, fun _ h => decode_crc8_of_opField h,
    fun a b s => ⟨_, runsTo_footprint (exec_crc8 a b s), rfl, rfl, rfl⟩,
    crc8_zero_zero, by decide +kernel, by decide +kernel, by decide +kernel, fun s => ?_⟩
  have hword : decode 0x1000BEEF = .crc8 0xBE 0xEF := by decide
  rw [hword, exec_crc8, crc8_beef]
  exact ⟨_, rfl, rfl, fun h => statusWord_finishOk h⟩

/-- Settles O26: CHECK is an update of CRC_OUT and STATUS, and VALID is the comparison. -/
theorem checkCommand : Obligations.CheckCommand := by
  unfold Obligations.CheckCommand
  refine ⟨assemble_check_word, fun _ h => decode_check_of_opField h,
    fun a b c s => ⟨_, runsTo_footprint (exec_check a b c s), rfl, rfl, rfl⟩, fun s => ?_⟩
  have hmatch : decode 0x2092BEEF = .check 0xBE 0xEF 0x92 := by decide
  have hmismatch : decode 0x2093BEEF = .check 0xBE 0xEF 0x93 := by decide
  rw [hmatch, hmismatch, exec_check 0 0 0, exec_check 0 0 0x81, crc8_zero_zero]
  exact ⟨_, _, rfl, rfl, rfl, rfl, exec_check_beef 0x92 s, exec_check_beef 0x93 s⟩

/-- Settles O27: both commands leave `crc8 a b` in CRC_OUT, and CHECK compares that value. -/
theorem checkAgreesWithCrc8 : Obligations.CheckAgreesWithCrc8 := by
  unfold Obligations.CheckAgreesWithCrc8
  exact fun a b c s => ⟨_, _, exec_check a b c s, exec_crc8 a b s, decide_eq_true_iff, rfl⟩

end Sys2Proof.Proofs
end

section
/-! PROOF. The word codec: the words of formats V and N, what WENC and WDEC write and leave, and the round trip of a
value through ENC_OUT, the frame buffer and WVAL. -/

namespace Sys2Proof

/-- A word of format V as its fields, each shifted to its place (spec R51). -/
theorem formatV_eq_or (op : BitVec 4) (v : Word) : formatV op v = op.setWidth 32 <<< 28 ||| v.setWidth 32 := by
  rw [← BitVec.setWidth_eq (formatV op v), formatV, BitVec.setWidth_append_append_eq_shiftLeft_setWidth_or]
  simp

theorem Word.toNat_le (v : Word) : v.toNat ≤ 65535 := by omega

theorem assemble_wenc_word (v : Word) :
    (AsmCommand.wenc v.toNat).assemble = some (0x30000000 ||| v.setWidth 32) := by
  rw [assemble_of_wellFormed (c := .wenc v.toNat) (decide_eq_true v.toNat_le), AsmCommand.expand, encode, formatV_eq_or]
  simp

theorem decode_wenc_of_opField {w : Command} (h : w.extractLsb' 28 4 = 0x3) :
    decode w = .wenc (w.extractLsb' 0 16) := by
  rw [decode, opField, h]
  rfl

theorem decode_wdec_of_opField {w : Command} (h : w.extractLsb' 28 4 = 0x4) : decode w = .wdec := by
  rw [decode, opField, h]
  rfl

end Sys2Proof

namespace Sys2Proof.Machine

/-! ## The wire group of a value (spec R21, R32, R70) -/

@[simp] theorem Group.pack_hi (g : Group) : g.pack.extractLsb' 16 8 = g.hi := by
  rw [Group.pack, BitVec.extractLsb'_append_eq_of_le (by omega), BitVec.extractLsb'_append_eq_of_le (by omega)]
  exact BitVec.extractLsb'_eq_self

@[simp] theorem Group.pack_lo (g : Group) : g.pack.extractLsb' 8 8 = g.lo := by
  rw [Group.pack, BitVec.extractLsb'_append_eq_of_le (by omega), BitVec.extractLsb'_append_eq_of_add_le (by omega)]
  exact BitVec.extractLsb'_eq_self

@[simp] theorem Group.pack_ck (g : Group) : g.pack.extractLsb' 0 8 = g.ck := by
  rw [Group.pack, BitVec.extractLsb'_append_eq_of_add_le (by omega)]
  exact BitVec.extractLsb'_eq_self

/-- A value is its high byte above its low byte. -/
@[simp] theorem wireGroup_value (v : Word) : (wireGroup v).value = v := by
  rw [Group.value, wireGroup, BitVec.extractLsb'_append_extractLsb'_eq_extractLsb' (by omega)]
  exact BitVec.extractLsb'_eq_self

@[simp] theorem wireGroup_ok (v : Word) : (wireGroup v).ok = true := (Group.ok_iff _).2 rfl

theorem exec_wenc (v : Word) (s : State) :
    exec (.wenc v) s = .next (((s.setEncOut (wireGroup v).pack).setCrcOut (wireGroup v).ck).finishOk true) := rfl

/-! The corner cases and the example of R70. -/

theorem pack_wireGroup_zero : (wireGroup 0x0000).pack = 0x000081 := by decide +kernel
theorem pack_wireGroup_ones : (wireGroup 0xFFFF).pack = 0xFFFFAC := by decide +kernel
theorem pack_wireGroup_beef : (wireGroup 0xBEEF).pack = 0xBEEF92 := by decide +kernel

theorem wireGroup_beef_ck : (wireGroup 0xBEEF).ck = 0x92 := by decide +kernel

/-! ## The two outcomes of WDEC (spec R71) -/

/-- `s` after a WDEC that passes the frame check. -/
def State.decodeWords (s : State) : State :=
  (s.setWords (BitVec.ofNat 8 s.frameWords) ((List.range s.params.maxWords).map (wdecValue s))
    ((List.range s.params.maxWords).map (wdecOk s))).finishOk (wdecAll s)

theorem exec_wdec_of_partialWord {s : State} (h : s.flen.toNat % 3 ≠ 0) :
    exec .wdec s = .next (s.clearWords.raise ⟨.frameLength, 0, 0⟩) :=
  if_pos h

theorem exec_wdec_of_wholeWords {s : State} (h : s.flen.toNat % 3 = 0) : exec .wdec s = .next s.decodeWords :=
  if_neg (not_not.2 h)

section
variable {s : State} {j : Nat}

theorem wdecValue_of_lt (hj : j < s.frameWords) : wdecValue s j = (groupAt s.fb (3 * j)).value := if_pos hj

theorem wdecOk_of_lt (hj : j < s.frameWords) : wdecOk s j = (groupAt s.fb (3 * j)).ok := by simp [wdecOk, hj]

theorem wdecValue_of_le (hj : s.frameWords ≤ j) : wdecValue s j = 0 := if_neg hj.not_gt

theorem wdecOk_of_le (hj : s.frameWords ≤ j) : wdecOk s j = false := by simp [wdecOk, hj.not_gt]

/-- NW has 8 bits and FLEN too, so it holds the number of words. -/
@[simp] theorem decodeWords_nw (s : State) : s.decodeWords.nw.toNat = s.frameWords := by
  have hlt := s.flen.isLt
  rw [State.decodeWords, State.finishOk_nw, State.setWords_nw, BitVec.toNat_ofNat, State.frameWords]
  omega

theorem decodeWords_wval (hj : j < s.params.maxWords) : s.decodeWords.wval.getD j 0 = wdecValue s j := by
  simp [State.decodeWords, hj]

theorem decodeWords_wok (hj : j < s.params.maxWords) : s.decodeWords.wok.getD j false = wdecOk s j := by
  simp [State.decodeWords, hj]

end

section
variable {s : State} (hfit : s.flen.toNat ≤ s.params.maxFrameBytes)
include hfit

/-- A frame that fits FB has no more words than there are word registers. -/
theorem frameWords_le_maxWords : s.frameWords ≤ s.params.maxWords := Nat.div_le_div_right hfit

theorem decodeWords_wval_of_lt {j : Nat} (hj : j < s.frameWords) :
    s.decodeWords.wval.getD j 0 = (groupAt s.fb (3 * j)).value := by
  rw [decodeWords_wval (hj.trans_le (frameWords_le_maxWords hfit)), wdecValue_of_lt hj]

theorem decodeWords_wok_of_lt {j : Nat} (hj : j < s.frameWords) :
    s.decodeWords.wok.getD j false = (groupAt s.fb (3 * j)).ok := by
  rw [decodeWords_wok (hj.trans_le (frameWords_le_maxWords hfit)), wdecOk_of_lt hj]

/-- VALID is the conjunction over the words of the frame alone. -/
theorem decodeWords_valid_iff :
    s.decodeWords.status.valid = true ↔ ∀ j < s.frameWords, s.decodeWords.wok.getD j false = true := by
  have hmax := frameWords_le_maxWords hfit
  simp only [State.decodeWords, State.finishOk_status, wdecAll, List.all_eq_true, List.mem_range, Bool.or_eq_true,
    Bool.not_eq_true', decide_eq_false_iff_not]
  constructor
  · intro hall j hj
    exact (decodeWords_wok (hj.trans_le hmax)).trans ((hall j (hj.trans_le hmax)).resolve_left (not_not.2 hj))
  · intro hall j hj
    exact or_iff_not_imp_left.2 fun hlt => (decodeWords_wok hj).symm.trans (hall j (not_not.1 hlt))

end

/-! ## The round trip (spec R72) -/

/-- A group written to the first three frame bytes stands there. -/
theorem groupAt_load {m : Memory} (h : m.wf) (g : Group) : groupAt (m.load 0 [g.hi, g.lo, g.ck]) 0 = g := by
  simp [groupAt, Memory.read_load h]

/-- The state after a host has loaded one group as the whole frame. -/
def State.withFrame (s : State) (g : Group) : State :=
  { s with fb := s.fb.load 0 [g.hi, g.lo, g.ck], flen := 3 }

theorem toNat_flen_withFrame (s : State) (g : Group) : (s.withFrame g).flen.toNat = 3 := rfl

section
variable {s : State} (h : s.Inv) (hroom : 3 ≤ s.params.maxFrameBytes) (g : Group)
include h hroom

/-- The accesses of a `frame` line (spec R64), then WDEC on CMD: the group passes the frame check. -/
theorem performAll_groupThenWdec :
    performAll s (frameEvents [g.hi, g.lo, g.ck] ++ [.write 0x000 0x40000000]) =
      .next (s.withFrame g).decodeWords := by
  rw [performAll_append (performAll_frameEvents (bytes := [g.hi, g.lo, g.ck]) h hroom)]
  have hwhole : (s.withFrame g).flen.toNat % 3 = 0 := by rw [toNat_flen_withFrame]
  exact performAll_cons_of_next ((perform_write_cmd (s.withFrame g) _).trans (exec_wdec_of_wholeWords hwhole))

/-- A loaded group decodes to one word: its value and its validity. -/
theorem decodeWords_withFrame :
    (s.withFrame g).decodeWords.nw = 1 ∧ (s.withFrame g).decodeWords.wval.getD 0 0 = g.value ∧
    (s.withFrame g).decodeWords.wok.getD 0 false = g.ok ∧ (s.withFrame g).decodeWords.status.valid = g.ok := by
  have hfit : (s.withFrame g).flen.toNat ≤ (s.withFrame g).params.maxFrameBytes := hroom
  have hone : (s.withFrame g).frameWords = 1 := by rw [State.frameWords, toNat_flen_withFrame]
  have hzero : 0 < (s.withFrame g).frameWords := hone ▸ Nat.one_pos
  have hgroup : groupAt (s.withFrame g).fb (3 * 0) = g := groupAt_load h.fb_wf g
  have hwok : (s.withFrame g).decodeWords.wok.getD 0 false = g.ok := by
    rw [decodeWords_wok_of_lt hfit hzero, hgroup]
  refine ⟨BitVec.eq_of_toNat_eq ((decodeWords_nw _).trans hone), ?_, hwok, ?_⟩
  · rw [decodeWords_wval_of_lt hfit hzero, hgroup]
  · rw [Bool.eq_iff_iff, decodeWords_valid_iff hfit, hone, ← hwok]
    simp

end

end Sys2Proof.Machine

namespace Sys2Proof.Proofs
open Sys2Proof.Machine

/-- Settles O28: WENC is an update of ENC_OUT, CRC_OUT and STATUS, and ENC_OUT is the wire group packed. -/
theorem wencCommand : Obligations.WencCommand := by
  unfold Obligations.WencCommand
  refine ⟨assemble_wenc_word, fun _ h => decode_wenc_of_opField h, fun v s => ?_, fun s => ?_⟩
  · exact ⟨_, runsTo_footprint (exec_wenc v s), Group.pack_hi _, Group.pack_lo _, Group.pack_ck _, rfl, rfl, rfl⟩
  · have hword : decode 0x3000BEEF = .wenc 0xBEEF := by decide
    rw [hword, exec_wenc, exec_wenc, exec_wenc, pack_wireGroup_zero, pack_wireGroup_ones, pack_wireGroup_beef,
      wireGroup_beef_ck]
    exact ⟨_, _, _, rfl, rfl, rfl, rfl, rfl, rfl, rfl⟩

/-- Settles O29: the frame check decides between clearing the word registers and decoding every group of the frame. -/
theorem wdecCommand : Obligations.WdecCommand := by
  unfold Obligations.WdecCommand
  refine ⟨rfl, fun _ h => decode_wdec_of_opField h, fun s hlen => ?_, fun s hlen hfit => ?_⟩
  · refine ⟨_, runsTo_footprint (exec_wdec_of_partialWord hlen), rfl, rfl, rfl, fun j hj => ?_⟩
    simp [hj]
  · refine ⟨_, runsTo_footprint (exec_wdec_of_wholeWords hlen), decodeWords_nw s, rfl, fun j hj => ⟨?_, ?_⟩,
      fun j hj hle => ⟨?_, ?_⟩, rfl, rfl, rfl, decodeWords_valid_iff hfit⟩
    · exact decodeWords_wval_of_lt hfit hj
    · exact decodeWords_wok_of_lt hfit hj
    · rw [decodeWords_wval hj, wdecValue_of_le hle]
    · rw [decodeWords_wok hj, wdecOk_of_le hle]

/-- Settles O30: the host's writes are those of a `frame` line, so the frame is the wire group of the value. -/
theorem wencWdecRoundTrip : Obligations.WencWdecRoundTrip := by
  unfold Obligations.WencWdecRoundTrip
  intro s v h hroom
  have hinv := exec_keeps_inv h (exec_wenc v s)
  have hdecode := decodeWords_withFrame hinv hroom (wireGroup v)
  rw [wireGroup_value, wireGroup_ok] at hdecode
  refine ⟨_, _, exec_wenc v s, ?_, hdecode⟩
  simp only [State.finishOk_encOut, State.setCrcOut_encOut, State.setEncOut_encOut, Group.pack_hi, Group.pack_lo,
    Group.pack_ck]
  exact performAll_groupThenWdec hinv hroom (wireGroup v)

/-- Settles O31: below NW, WOK is the comparison that CHECK makes; after a frame error NW is 0. -/
theorem wdecAgreesWithCheck : Obligations.WdecAgreesWithCheck := by
  unfold Obligations.WdecAgreesWithCheck
  intro s hfit
  by_cases hlen : s.flen.toNat % 3 = 0
  · refine ⟨_, exec_wdec_of_wholeWords hlen, fun j hj => ⟨_, exec_check _ _ _ s, ?_⟩⟩
    rw [decodeWords_nw] at hj
    exact decodeWords_wok_of_lt hfit hj
  · exact ⟨_, exec_wdec_of_partialWord hlen, fun j hj => absurd hj (Nat.not_lt_zero j)⟩

end Sys2Proof.Proofs
end

section
/-! PROOF. Field extraction: EXTRACT and READING through their checks in the order frame, structure, range, checksum;
`field_decode` as its pseudocode; EXTRACT against WDEC; and that no step stops. -/

namespace Sys2Proof

/-- A word of format K as its fields, each shifted to its place (spec R51). -/
theorem formatK_eq_or (op : BitVec 4) (k : Byte) : formatK op k = op.setWidth 32 <<< 28 ||| k.setWidth 32 := by
  rw [← BitVec.setWidth_eq (formatK op k), formatK, BitVec.setWidth_append_append_eq_shiftLeft_setWidth_or]
  simp

theorem assemble_extract_word (k : Byte) :
    (AsmCommand.extract k.toNat).assemble = some (0x50000000 ||| k.setWidth 32) := by
  rw [assemble_of_wellFormed (c := .extract k.toNat) (decide_eq_true k.toNat_le), AsmCommand.expand, encode,
    formatK_eq_or]
  simp

theorem decode_extract_of_opField {w : Command} (h : w.extractLsb' 28 4 = 0x5) :
    decode w = .extract (w.extractLsb' 0 8) := by
  rw [decode, opField, h]
  rfl

end Sys2Proof

namespace Sys2Proof.Machine

/-! ## The two outcomes of EXTRACT, and the failure of READING -/

section
variable {s : State} {k : Byte} {f : Failure} {r : Scalar}

theorem exec_extract_of_fail (h : extractResult k s = .fail f) :
    exec (.extract k) s = .next (s.clearSingle.raise f) := by
  rw [exec, execExtract, h]

theorem exec_extract_of_ok (h : extractResult k s = .ok r) :
    exec (.extract k) s = .next ((s.setSingle r).finishOk true) := by
  rw [exec, execExtract, h]

theorem exec_reading_of_fail (h : readingResult s = .fail f) : exec .reading s = .next (s.dropReading.raise f) := by
  rw [exec, execReading, h]

theorem extractResult_eq_fault {f : Fault} :
    extractResult k s = .fault f ↔
      s.flen.toNat % 3 = 0 ∧ k.toNat < s.nf.toNat ∧ fieldDecode s k.toNat = .fault f := by
  unfold extractResult
  cases hf : frameFailure s with
  | some g => simp [(frameFailure_eq_some.1 hf).1]
  | none =>
    by_cases hk : s.nf.toNat ≤ k.toNat
    · simp [hk]
    · simp [hk, frameFailure_eq_none.1 hf, Nat.lt_of_not_le hk]

/-- Once the frame and the index pass, EXTRACT is `field_decode` (spec R80). -/
theorem extractResult_eq_fieldDecode (hlen : s.flen.toNat % 3 = 0) (hk : k.toNat < s.nf.toNat) :
    extractResult k s = fieldDecode s k.toNat := by
  rw [extractResult, frameFailure_eq_none.2 hlen]
  exact if_neg hk.not_ge

theorem readingResult_of_configFailure (h : readingConfigFailure s = some f) : readingResult s = .fail f := by
  rw [readingResult, h]

/-- A failing READING writes STATUS and RVALID alone (spec R95). -/
theorem dropReading_raise_sameExcept (s : State) (f : Failure) :
    SameExcept [.status, .rvalid] s (s.dropReading.raise f) := by
  refine ⟨fun r _ hne => ?_, rfl, rfl, rfl⟩
  cases r with
  | status | rvalid => simp at hne
  | _ => rfl

end

/-! ## Every command completes (spec R77, R100) -/

section
variable {s : State} (hfit : s.flen.toNat ≤ s.params.maxFrameBytes)
include hfit

/-- The range check keeps a field inside FB. -/
theorem FieldLegal.descEnd_le {k : Nat} (h : FieldLegal s k) : descEnd (s.descAt k) ≤ s.params.maxFrameBytes := by
  obtain ⟨-, hrange⟩ := h
  exact hrange.trans hfit

theorem execExtract_completes (k : Byte) : ∃ t, execExtract k s = .next t := by
  obtain ⟨f, hf, -⟩ | ⟨f, -, he⟩ | ⟨r, -, he⟩ := execExtract_cases k s
  · obtain ⟨-, -, hd⟩ := extractResult_eq_fault.1 hf
    obtain ⟨hlegal, hout⟩ := fieldDecode_eq_fault.1 hd
    exact absurd (hlegal.descEnd_le hfit) hout.not_ge
  · exact ⟨_, he⟩
  · exact ⟨_, he⟩

theorem execReading_completes : ∃ t, execReading s = .next t := by
  obtain ⟨f, hf, -⟩ | ⟨f, -, he⟩ | ⟨rs, -, he⟩ := execReading_cases s
  · obtain ⟨⟨-, hlegal, -⟩, k, hk, hout⟩ := readingResult_eq_fault hf
    exact absurd ((hlegal k hk).descEnd_le hfit) hout.not_ge
  · exact ⟨_, he⟩
  · exact ⟨_, he⟩

theorem exec_completes (i : Instr) : ∃ t, exec i s = .next t := by
  cases i with
  | wdec =>
    by_cases hlen : s.flen.toNat % 3 = 0
    · exact ⟨_, exec_wdec_of_wholeWords hlen⟩
    · exact ⟨_, exec_wdec_of_partialWord hlen⟩
  | extract k => exact execExtract_completes hfit k
  | reading => exact execReading_completes hfit
  | crc8 | check | wenc | illegal0 | illegal7 | illegal8 | illegal9 | illegalA | illegalB | illegalC | illegalD
  | illegalE | illegalF => exact ⟨_, rfl⟩

/-- An access completes: only a write to CMD runs a command, and no other access can stop. -/
theorem perform_completes (e : HostEvent) : ∃ t, perform s e = .next t := by
  cases e with
  | read | reset => exact ⟨_, rfl⟩
  | write index v =>
    cases hr : regAt s.params index with
    | none => exact ⟨_, perform_write_of_unmapped hr v⟩
    | some r =>
      rw [perform_write_of_regAt hr]
      cases r with
      | cmd => exact exec_completes hfit _
      | _ => exact ⟨_, rfl⟩

theorem step_completes : ∃ t, step s = .next t := by
  cases hi : s.inbox with
  | nil => exact ⟨s, step_of_inbox_nil hi⟩
  | cons e rest =>
    rw [step_of_inbox_cons hi]
    exact perform_completes (s := s.setInbox rest) hfit e

end

/-! ## The frame check (spec R75) -/

section
variable {s : State} (h : s.flen.toNat % 3 ≠ 0)
include h

theorem exec_extract_of_partialWord (k : Byte) :
    exec (.extract k) s = .next (s.clearSingle.raise ⟨.frameLength, 0, 0⟩) :=
  exec_extract_of_fail (extractResult_eq_fail.2 (.inl (frameFailure_eq_some.2 ⟨h, rfl⟩)))

theorem exec_reading_of_partialWord : exec .reading s = .next (s.dropReading.raise ⟨.frameLength, 0, 0⟩) := by
  refine exec_reading_of_fail (readingResult_of_configFailure ?_)
  rw [readingConfigFailure, frameFailure_eq_some.2 ⟨h, rfl⟩, Option.some_or]

end

/-! ## The structure and the range check (spec R76, R77) -/

/-- MODE 3 is the reserved mode (spec R58). -/
theorem descMode_eq_reserved {d : Desc} : descMode d = .reserved ↔ d.extractLsb' 10 2 = 3 := by
  unfold descMode
  generalize d.extractLsb' 10 2 = code
  revert code
  decide

theorem descWcnt_eq_iff (d : Desc) (n : BitVec 2) : descWcnt d = n.toNat ↔ d.extractLsb' 8 2 = n :=
  BitVec.toNat_inj

/-- The six conditions of R76, on the bits of the descriptor. -/
theorem structureFails_iff (d : Desc) : structureFails d = true ↔
    (d.extractLsb' 8 2 = 0 ∨ d.extractLsb' 8 2 = 3) ∨ d.extractLsb' 10 2 = 3 ∨
    (d.extractLsb' 10 2 = 0 ∧ d.extractLsb' 8 2 ≠ 2) ∨
    ((d.extractLsb' 10 2 = 1 ∨ d.extractLsb' 10 2 = 2) ∧ d.extractLsb' 8 2 ≠ 1) ∨
    (d.extractLsb' 10 2 = 2 ∧ d.extractLsb' 32 16 = 0) ∨ (d.extractLsb' 0 8).toNat % 3 ≠ 0 := by
  obtain ⟨hfloat, hfixed, hidiv⟩ := descMode_iff d
  rw [← hfloat, ← hfixed, ← hidiv, ← descMode_eq_reserved]
  simp only [ne_eq, ← descWcnt_eq_iff]
  simp [structureFails, descDiv, descOff, or_assoc]

/-- ERRK of a field's error is the command's K. -/
theorem fieldFailure_toNat (s : State) (e : ErrCode) (k : Byte) :
    fieldFailure s e k.toNat = ⟨e, k, descTag (s.descAt k.toNat)⟩ := by
  rw [fieldFailure, BitVec.ofNat_toNat, BitVec.setWidth_eq]

theorem fields_eq_append {s : State} {k : Nat} (hk : k < s.nf.toNat) :
    ∃ rest, s.fields = List.range k ++ k :: rest := by
  obtain ⟨n, hn⟩ := Nat.exists_eq_add_of_lt hk
  exact ⟨_, by rw [State.fields, hn, Nat.add_assoc, List.range_add, List.range_succ_eq_map, List.map_cons,
    Nat.add_zero]⟩

/-- On a whole frame the first illegal descriptor gives READING its error (spec R93, item 2). -/
theorem readingConfigFailure_of_first {s : State} {k : Nat} {f : Failure} (hlen : s.flen.toNat % 3 = 0)
    (hk : k < s.nf.toNat) (hbefore : ∀ j < k, FieldLegal s j) (hf : configFailure s k = some f) :
    readingConfigFailure s = some f := by
  obtain ⟨rest, hfields⟩ := fields_eq_append hk
  have hfirst : s.fields.findSome? (configFailure s) = some f :=
    List.findSome?_eq_some_iff.2 ⟨_, k, rest, hfields, hf, fun j hj =>
      configFailure_eq_none.2 (hbefore j (List.mem_range.1 hj))⟩
  rw [readingConfigFailure, frameFailure_eq_none.2 hlen, hfirst, Option.none_or, Option.some_or]

/-- What an error of the structure or the range check does to the two commands (spec R76, R77). -/
theorem configFailure_raised {s : State} {k : Byte} {e : ErrCode} (hlen : s.flen.toNat % 3 = 0)
    (hk : k.toNat < s.nf.toNat) (hf : configFailure s k.toNat = some (fieldFailure s e k.toNat)) :
    (∃ t, exec (.extract k) s = .next t ∧ t.status = ⟨e, false, k, (s.descAt k.toNat).extractLsb' 16 8⟩) ∧
    ((∀ j < k.toNat, FieldLegal s j) → ∃ t, exec .reading s = .next t ∧
      t.status = ⟨e, false, k, (s.descAt k.toNat).extractLsb' 16 8⟩) := by
  rw [fieldFailure_toNat] at hf
  have hextract := (extractResult_eq_fieldDecode hlen hk).trans (fieldDecode_eq_fail.2 (.inl hf))
  refine ⟨⟨_, exec_extract_of_fail hextract, rfl⟩, fun hbefore => ?_⟩
  have hreading := readingResult_of_configFailure (readingConfigFailure_of_first hlen hk hbefore hf)
  exact ⟨_, exec_reading_of_fail hreading, rfl⟩

/-! ## The checksum check (spec R78) -/

theorem checkFields_append {s : State} {ks : List Nat} (h : checkFields s ks = .ok ()) (ls : List Nat) :
    checkFields s (ks ++ ls) = checkFields s ls := by
  induction ks with
  | nil => rfl
  | cons k ks ih =>
    cases hw : fieldWords s k with
    | ok ws =>
      simp only [checkFields, hw] at h
      simp only [List.cons_append, checkFields, hw, ih h]
    | fault | fail => simp [checkFields, hw] at h

section
variable {s : State} {k : Nat} (hfit : s.flen.toNat ≤ s.params.maxFrameBytes)
include hfit

theorem fieldDecode_of_invalid (hlegal : FieldLegal s k) (hinvalid : ¬ FieldValid s k) :
    fieldDecode s k = .fail (fieldFailure s .checksum k) :=
  fieldDecode_eq_fail.2 (.inr ⟨hlegal, hlegal.descEnd_le hfit, hinvalid, rfl⟩)

theorem fieldDecode_of_valid (hlegal : FieldLegal s k) (hvalid : FieldValid s k) :
    fieldDecode s k = .ok (decodeScalar (s.descAt k)
      ((List.range (descWcnt (s.descAt k))).map fun j => (fieldGroup s k j).value)) :=
  fieldDecode_eq_ok.2 ⟨hlegal, hlegal.descEnd_le hfit, hvalid, rfl⟩

/-- On a legal table the first invalid field gives READING its error (spec R93, item 4). -/
theorem readingResult_of_firstInvalid (hk : k < s.nf.toNat) (htable : TableLegal s)
    (hbefore : ∀ j < k, FieldValid s j) (hinvalid : ¬ FieldValid s k) :
    readingResult s = .fail (fieldFailure s .checksum k) := by
  obtain ⟨rest, hfields⟩ := fields_eq_append hk
  have hconfig := readingConfigFailure_eq_none.2 htable
  obtain ⟨-, hlegal, -⟩ := htable
  have hwords : fieldWords s k = .fail (fieldFailure s .checksum k) :=
    fieldWords_eq_fail.2 ⟨(hlegal k hk).descEnd_le hfit, hinvalid, rfl⟩
  have hpre : checkFields s (List.range k) = .ok () := by
    refine checkFields_eq_ok.2 fun j hj => ?_
    have hjk := List.mem_range.1 hj
    exact ⟨(hlegal j (hjk.trans hk)).descEnd_le hfit, hbefore j hjk⟩
  rw [readingResult, hconfig, hfields, checkFields_append hpre, checkFields, hwords]

end

/-! ## `field_decode` as its pseudocode (spec R79) -/

/-- The six conditions with WCNT and MODE as numbers, as R79 writes them. -/
theorem structureFails_iff_toNat (d : Desc) : structureFails d = true ↔
    (d.extractLsb' 8 2).toNat = 0 ∨ (d.extractLsb' 8 2).toNat = 3 ∨ (d.extractLsb' 10 2).toNat = 3 ∨
    ((d.extractLsb' 10 2).toNat = 0 ∧ (d.extractLsb' 8 2).toNat ≠ 2) ∨
    (((d.extractLsb' 10 2).toNat = 1 ∨ (d.extractLsb' 10 2).toNat = 2) ∧ (d.extractLsb' 8 2).toNat ≠ 1) ∨
    ((d.extractLsb' 10 2).toNat = 2 ∧ d.extractLsb' 32 16 = 0) ∨ (d.extractLsb' 0 8).toNat % 3 ≠ 0 := by
  have hcode (x : BitVec 2) (n : BitVec 2) : x.toNat = n.toNat ↔ x = n := BitVec.toNat_inj
  rw [structureFails_iff, or_assoc]
  simp only [ne_eq, ← hcode]
  rfl

theorem fieldValid_iff (s : State) (k : Nat) : FieldValid s k ↔
    ¬ ∃ j < descWcnt (s.descAt k), crc8 (s.fb.read (descOff (s.descAt k) + 3 * j))
      (s.fb.read (descOff (s.descAt k) + 3 * j + 1)) ≠ s.fb.read (descOff (s.descAt k) + 3 * j + 2) := by
  simp only [FieldValid, Group.ok_iff, fieldGroup, groupAt, not_exists, not_and, not_not]

/-- A legal field has two words in the FLOAT32 mode and one in the others (spec R76). -/
theorem FieldLegal.descWcnt_eq {s : State} {k : Nat} (h : FieldLegal s k) :
    descWcnt (s.descAt k) = if descMode (s.descAt k) = .float32 then 2 else 1 := by
  obtain ⟨hstruct, -⟩ := h
  obtain ⟨⟨hmode, hwcnt⟩ | ⟨hmode, hwcnt⟩ | ⟨hmode, hwcnt, -⟩, -⟩ := structureFails_eq_false.1 hstruct <;>
    simp [hmode, hwcnt]

section
variable {s : State} {k : Nat} (hfit : s.flen.toNat ≤ s.params.maxFrameBytes) (hlegal : FieldLegal s k)
  (hvalid : FieldValid s k)
include hfit hlegal hvalid

theorem fieldDecode_of_float32 (hmode : descMode (s.descAt k) = .float32) : fieldDecode s k =
    .ok (float32 (fieldGroup s k 0).value (fieldGroup s k 1).value (descTag (s.descAt k))) := by
  rw [fieldDecode_of_valid hfit hlegal hvalid, hlegal.descWcnt_eq, decodeScalar, hmode]
  rfl

theorem fieldDecode_of_fixed (hmode : descMode (s.descAt k) = .fixed) : fieldDecode s k =
    .ok (fixed (fieldGroup s k 0).value (descScale (s.descAt k)) (descOffs (s.descAt k)) (descTag (s.descAt k))) := by
  rw [fieldDecode_of_valid hfit hlegal hvalid, hlegal.descWcnt_eq, decodeScalar, hmode]
  rfl

theorem fieldDecode_of_idiv (hmode : descMode (s.descAt k) = .idiv) : fieldDecode s k =
    .ok (idiv (fieldGroup s k 0).value (descDiv (s.descAt k)) (descTag (s.descAt k))) := by
  rw [fieldDecode_of_valid hfit hlegal hvalid, hlegal.descWcnt_eq, decodeScalar, hmode]
  rfl

end

/-- SCALE and OFFS sign-extended to 64 bits are the same integers. -/
theorem fixed_signExtend (v : Word) (d : Desc) (tag : Byte) : fixed v (descScale d) (descOffs d) tag =
    ⟨.rational, 0, BitVec.ofInt 64 (v.toNat * ((d.extractLsb' 32 16).signExtend 64).toInt +
      ((d.extractLsb' 48 16).signExtend 64).toInt * 65535), 65535, tag⟩ := by
  rw [BitVec.toInt_signExtend_of_le (by omega), BitVec.toInt_signExtend_of_le (by omega)]
  rfl

/-! ## EXTRACT against WDEC (spec R81) -/

section
variable {s : State} {k j : Nat} (hlegal : FieldLegal s k) (hj : j < descWcnt (s.descAt k))
include hlegal

/-- BYTEOFF is a multiple of 3, so word `j` of a field is word `BYTEOFF/3 + j` of the frame (spec R76, R77). -/
theorem fieldGroup_eq_frameGroup : fieldGroup s k j = groupAt s.fb (3 * (descOff (s.descAt k) / 3 + j)) := by
  obtain ⟨hstruct, -⟩ := hlegal
  obtain ⟨-, hoff⟩ := structureFails_eq_false.1 hstruct
  rw [fieldGroup, Nat.mul_add, Nat.mul_div_cancel' (Nat.dvd_of_mod_eq_zero hoff)]

include hj

theorem fieldWord_lt_frameWords : descOff (s.descAt k) / 3 + j < s.frameWords := by
  obtain ⟨-, hrange⟩ := hlegal
  unfold descEnd at hrange
  unfold State.frameWords
  omega

variable (hfit : s.flen.toNat ≤ s.params.maxFrameBytes)
include hfit

theorem wok_of_field : s.decodeWords.wok.getD (descOff (s.descAt k) / 3 + j) false = (fieldGroup s k j).ok := by
  rw [decodeWords_wok_of_lt hfit (fieldWord_lt_frameWords hlegal hj), fieldGroup_eq_frameGroup hlegal]

theorem wval_of_field : s.decodeWords.wval.getD (descOff (s.descAt k) / 3 + j) 0 = (fieldGroup s k j).value := by
  rw [decodeWords_wval_of_lt hfit (fieldWord_lt_frameWords hlegal hj), fieldGroup_eq_frameGroup hlegal]

end

section
variable {s : State} {k : Nat} (hfit : s.flen.toNat ≤ s.params.maxFrameBytes) (hlegal : FieldLegal s k)
include hfit hlegal

theorem fieldValid_iff_wok : FieldValid s k ↔ ∀ j < descWcnt (s.descAt k),
    s.decodeWords.wok.getD (descOff (s.descAt k) / 3 + j) false = true :=
  forall₂_congr fun j hj => by rw [wok_of_field hlegal hj hfit]

/-- WDEC's words are the words that `field_decode` reads. -/
theorem fieldDecode_of_wval (hvalid : FieldValid s k) :
    fieldDecode s k = .ok (decodeScalar (s.descAt k) ((List.range (descWcnt (s.descAt k))).map fun j =>
      s.decodeWords.wval.getD (descOff (s.descAt k) / 3 + j) 0)) := by
  rw [fieldDecode_of_valid hfit hlegal hvalid]
  refine congrArg (fun ws => Attempt.ok (decodeScalar _ ws)) (List.map_congr_left fun j hj => ?_)
  exact (wval_of_field hlegal (List.mem_range.1 hj) hfit).symm

end

end Sys2Proof.Machine

namespace Sys2Proof.Proofs
open Sys2Proof.Machine

/-- Settles O60: a command stops only by a read outside FB, and a legal field of a frame inside FB makes none. -/
theorem stepNeverStops : Obligations.StepNeverStops := by
  unfold Obligations.StepNeverStops
  exact fun _ h => step_completes h.flen_le

/-- Settles O32: a frame error ends both commands before a descriptor is looked at, with the same outcome for any
table. -/
theorem frameCheckComesFirst : Obligations.FrameCheckComesFirst := by
  unfold Obligations.FrameCheckComesFirst
  refine fun s h => ⟨fun k => ⟨_, runsTo_footprint (exec_extract_of_partialWord h k), rfl, rfl⟩,
    ⟨_, ⟨exec_reading_of_partialWord h, dropReading_raise_sameExcept s _, fun _ => rfl⟩, rfl, rfl⟩,
    fun i n ds hi => ?_⟩
  have h' : ({ s with nf := n, desc := ds } : State).flen.toNat % 3 ≠ 0 := h
  obtain rfl | ⟨k, rfl⟩ := hi
  · rw [exec_reading_of_partialWord h', exec_reading_of_partialWord h]
    rfl
  · rw [exec_extract_of_partialWord h', exec_extract_of_partialWord h]
    rfl

/-- Settles O33: the check's items on the bits, and the first configuration error of both commands. -/
theorem structureCheckOfADescriptor : Obligations.StructureCheckOfADescriptor := by
  unfold Obligations.StructureCheckOfADescriptor
  exact ⟨structureFails_iff, fun _ _ hlen hk hfails =>
    configFailure_raised hlen hk (configFailure_eq_some.2 (.inl ⟨hfails, rfl⟩))⟩

/-- Settles O34: the range check decides once the structure check has passed; a span that ends inside the frame ends
inside FB. -/
theorem rangeCheckOfADescriptor : Obligations.RangeCheckOfADescriptor := by
  unfold Obligations.RangeCheckOfADescriptor
  refine ⟨fun _ _ hlen hk hpasses hrange =>
    configFailure_raised hlen hk (configFailure_eq_some.2 (.inr ⟨hpasses, hrange, rfl⟩)),
    fun s k hfit hlegal => ⟨?_, fun j hj b hb => ?_⟩⟩
  · exact mt readGroups_eq_none.1 (hlegal.descEnd_le hfit).not_gt
  · obtain ⟨-, hrange⟩ := hlegal
    unfold descEnd at hrange
    omega

/-- Settles O35: the checksum check of the field, which READING reaches once the earlier fields have passed theirs. -/
theorem checksumCheckOfADescriptor : Obligations.ChecksumCheckOfADescriptor := by
  unfold Obligations.ChecksumCheckOfADescriptor
  intro s k hlen hfit hk hlegal hinvalid
  have hdecode := fieldDecode_of_invalid hfit hlegal hinvalid
  rw [fieldFailure_toNat] at hdecode
  have hextract := (extractResult_eq_fieldDecode hlen hk).trans hdecode
  refine ⟨⟨_, exec_extract_of_fail hextract, rfl, rfl⟩, fun htable hbefore => ?_⟩
  have hreading := readingResult_of_firstInvalid hfit hk htable hbefore hinvalid
  rw [fieldFailure_toNat] at hreading
  exact ⟨_, exec_reading_of_fail hreading, rfl, rfl⟩

/-- Settles O36, along the chain of checks and then the modes. -/
theorem fieldDecodeFollowsItsPseudocode : Obligations.FieldDecodeFollowsItsPseudocode := by
  unfold Obligations.FieldDecodeFollowsItsPseudocode
  intro s k hfit d off wc mode tag v
  obtain ⟨hfloat, hfixed, hidiv⟩ := descMode_iff d
  split_ifs with hstruct hrange hinvalid hm0 hm1
  · exact fieldDecode_eq_fail.2 (.inl (configFailure_eq_some.2 (.inl ⟨(structureFails_iff_toNat d).2 hstruct, rfl⟩)))
  all_goals have hpasses := Bool.eq_false_iff.2 (mt (structureFails_iff_toNat d).1 hstruct)
  · exact fieldDecode_eq_fail.2 (.inl (configFailure_eq_some.2 (.inr ⟨hpasses, hrange, rfl⟩)))
  all_goals have hlegal : FieldLegal s k := ⟨hpasses, Nat.le_of_not_lt hrange⟩
  · exact fieldDecode_of_invalid hfit hlegal fun hvalid => (fieldValid_iff s k).1 hvalid hinvalid
  all_goals have hvalid : FieldValid s k := (fieldValid_iff s k).2 hinvalid
  · exact fieldDecode_of_float32 hfit hlegal hvalid (hfloat.2 (BitVec.eq_of_toNat_eq hm0))
  · rw [fieldDecode_of_fixed hfit hlegal hvalid (hfixed.2 (BitVec.eq_of_toNat_eq hm1)), fixed_signExtend]
    rfl
  · have hm2 : mode = 2 := by
      have := (d.extractLsb' 10 2).isLt
      omega
    exact fieldDecode_of_idiv hfit hlegal hvalid (hidiv.2 (BitVec.eq_of_toNat_eq hm2))

/-- Settles O37: the outcomes of EXTRACT, each an update of STATUS and the single-result registers. -/
theorem extractCommand : Obligations.ExtractCommand := by
  unfold Obligations.ExtractCommand
  refine ⟨assemble_extract_word, fun _ h => decode_extract_of_opField h, fun s k hlen => ?_, fun s k hlen hk => ?_,
    fun s k f hlen hk hdecode => ?_, fun s k r hlen hk hdecode => ?_⟩
  · exact ⟨_, runsTo_footprint (exec_extract_of_partialWord hlen k), rfl, rfl, rfl⟩
  · have hindex := extractResult_eq_fail.2 (.inr (.inl ⟨hlen, hk, rfl⟩))
    exact ⟨_, runsTo_footprint (exec_extract_of_fail hindex), rfl, rfl, rfl⟩
  · have hfield := (extractResult_eq_fieldDecode hlen hk).trans hdecode
    exact ⟨_, runsTo_footprint (exec_extract_of_fail hfield), rfl, rfl, rfl⟩
  · have hscalar := (extractResult_eq_fieldDecode hlen hk).trans hdecode
    exact ⟨_, runsTo_footprint (exec_extract_of_ok hscalar), rfl, rfl, rfl⟩

/-- Settles O38: both commands read the same groups, so a field is valid exactly when WDEC marks its words. -/
theorem extractAgreesWithWdec : Obligations.ExtractAgreesWithWdec := by
  unfold Obligations.ExtractAgreesWithWdec
  intro s k hlen hfit hk hlegal
  have hfield := extractResult_eq_fieldDecode hlen hk
  refine ⟨s.decodeWords, ?_⟩
  rw [← fieldValid_iff_wok hfit hlegal]
  by_cases hvalid : FieldValid s k.toNat
  · exact ⟨_, exec_wdec_of_wholeWords hlen,
      exec_extract_of_ok (hfield.trans (fieldDecode_of_wval hfit hlegal hvalid)), iff_of_true rfl hvalid, fun _ => rfl⟩
  · exact ⟨_, exec_wdec_of_wholeWords hlen,
      exec_extract_of_fail (hfield.trans (fieldDecode_of_invalid hfit hlegal hvalid)), iff_of_false nofun hvalid, nofun⟩

end Sys2Proof.Proofs
end

section
/-! PROOF. The scalars that EXTRACT delivers: the bits of FLOAT32, the exact rationals of FIXED and IDIV, and when two
rational results stand for one value. -/

namespace Sys2Proof.Machine

/-! ## The value of a rational result (spec R85 to R88) -/

theorem fixed_den_toNat (v : Word) (scale offs : Int) (tag : Byte) : (fixed v scale offs tag).den.toNat = 65535 := rfl

section
variable (v : Word) (scale offs div : BitVec 16) (tag : Byte)

/-- Nothing wraps: the register holds the numerator of R85 itself (spec R86). -/
theorem fixed_num_toInt : (fixed v scale.toInt offs.toInt tag).num.toInt = v.toNat * scale.toInt + offs.toInt * 65535 :=
  toInt_fixedNum v scale offs

theorem fixed_num_bound : (fixed v scale.toInt offs.toInt tag).num.toInt.natAbs ≤ 4294901760 := by
  rw [fixed, toInt_fixedNum]
  exact fixedNum_bound v scale offs

theorem fixed_value : (fixed v scale.toInt offs.toInt tag).value =
    (v.toNat : Rat) / 65535 * (scale.toInt : Rat) + (offs.toInt : Rat) := by
  rw [Scalar.value, fixed_num_toInt, fixed_den_toNat]
  push_cast
  ring

theorem idiv_num_toInt : (idiv v div tag).num.toInt = (v.toNat : Int) := toInt_setWidth_word v

theorem idiv_value : (idiv v div tag).value = (v.toNat : Rat) / (div.toNat : Rat) := by
  rw [Scalar.value, idiv_num_toInt, Int.cast_natCast, idiv]

end

theorem cast_toNat_ne_zero {x : BitVec 16} (hx : x ≠ 0) : (x.toNat : Rat) ≠ 0 :=
  Nat.cast_ne_zero.2 fun h => hx (BitVec.eq_of_toNat_eq h)

/-- Two quotients with nonzero denominators are equal exactly when their cross products are. -/
theorem Scalar.value_eq_iff {r q : Scalar} (hr : r.den ≠ 0) (hq : q.den ≠ 0) :
    r.value = q.value ↔ r.num.toInt * (q.den.toNat : Int) = q.num.toInt * (r.den.toNat : Int) := by
  rw [Scalar.value, Scalar.value, div_eq_div_iff (cast_toNat_ne_zero hr) (cast_toNat_ne_zero hq)]
  exact_mod_cast Iff.rfl

theorem Scalar.sameValue_iff (r q : Scalar) :
    r.sameValue q = true ↔ r.num.toInt * (q.den.toNat : Int) = q.num.toInt * (r.den.toNat : Int) :=
  beq_iff_eq

/-! ## IDIV as a fixed-point scale (spec R89) -/

theorem scale_isInt_iff_dvd {div : BitVec 16} (hdiv : div ≠ 0) :
    (∃ z : Int, (65535 : Rat) / (div.toNat : Rat) = z) ↔ div.toNat ∣ 65535 := by
  have hcross (z : Int) : (65535 : Rat) / (div.toNat : Rat) = z ↔ (65535 : Int) = div.toNat * z := by
    rw [div_eq_iff (cast_toNat_ne_zero hdiv), mul_comm]
    exact_mod_cast Iff.rfl
  rw [← Int.natCast_dvd_natCast, dvd_def]
  exact exists_congr hcross

/-- The word 1 shows whether an integer SCALE with offset 0 can stand for the divisor. -/
theorem dvd_of_fixed_one_eq_idiv_one {scale div : BitVec 16} {tag : Byte} (hdiv : div ≠ 0)
    (h : (fixed 1 scale.toInt 0 tag).value = (idiv 1 div tag).value) : div.toNat ∣ 65535 := by
  have hfixed : (fixed 1 scale.toInt 0 tag).num.toInt = scale.toInt := by
    simpa using fixed_num_toInt 1 scale 0 tag
  have hden : (fixed 1 scale.toInt 0 tag).den ≠ 0 := (by decide : (65535 : BitVec 16) ≠ 0)
  have hcross := (Scalar.value_eq_iff hden hdiv).1 h
  rw [hfixed, idiv_num_toInt, fixed_den_toNat] at hcross
  exact Int.natCast_dvd_natCast.1 ⟨scale.toInt, by rw [mul_comm]; exact hcross.symm⟩

/-! ## EXTRACT of a field that decodes (spec R80) -/

theorem runsTo_extract_of_fieldDecode {s : State} {k : Byte} {r : Scalar} (hlen : s.flen.toNat % 3 = 0)
    (hk : k.toNat < s.nf.toNat) (hdecode : fieldDecode s k.toNat = .ok r) :
    RunsTo (.extract k) s ((s.setSingle r).finishOk true) (.status :: singleRegs) :=
  runsTo_footprint (exec_extract_of_ok ((extractResult_eq_fieldDecode hlen hk).trans hdecode))

theorem appendBytes_assoc (a b c d : Byte) : ((a ++ b) ++ (c ++ d) : BitVec 32) = a ++ b ++ c ++ d := by
  rw [BitVec.append_assoc (x₁ := a ++ b), BitVec.cast_eq]

/-- R_BITS of a FLOAT32 field: the data bytes in frame order, the checksum byte between them left out (spec R82). -/
theorem float32_bits_fieldGroup (s : State) (k : Nat) (tag : Byte) :
    (float32 (fieldGroup s k 0).value (fieldGroup s k 1).value tag).bits =
      s.fb.read (descOff (s.descAt k)) ++ s.fb.read (descOff (s.descAt k) + 1) ++
        s.fb.read (descOff (s.descAt k) + 3) ++ s.fb.read (descOff (s.descAt k) + 4) :=
  appendBytes_assoc ..

/-- A legal IDIV descriptor has a divisor (spec R76, item 5). -/
theorem FieldLegal.descDiv_ne_zero {s : State} {k : Nat} (h : FieldLegal s k) (hmode : descMode (s.descAt k) = .idiv) :
    descDiv (s.descAt k) ≠ 0 := by
  obtain ⟨hstruct, -⟩ := h
  obtain ⟨⟨hfloat, -⟩ | ⟨hfixed, -⟩ | ⟨-, -, hdiv⟩, -⟩ := structureFails_eq_false.1 hstruct
  · exact absurd (hmode.symm.trans hfloat) nofun
  · exact absurd (hmode.symm.trans hfixed) nofun
  · exact hdiv

end Sys2Proof.Machine

namespace Sys2Proof.Proofs
open Sys2Proof.Machine

/-- Settles O39: the two words of the field stand side by side in R_BITS. -/
theorem float32DeliversTheBits : Obligations.Float32DeliversTheBits := by
  unfold Obligations.Float32DeliversTheBits
  intro s k hlen hfit hk hlegal hvalid hmode
  obtain ⟨hfloat, -, -⟩ := descMode_iff (s.descAt k.toNat)
  have hdecode := fieldDecode_of_float32 hfit hlegal hvalid (hfloat.2 hmode)
  exact ⟨_, runsTo_extract_of_fieldDecode hlen hk hdecode, rfl, rfl, rfl, rfl, rfl, float32_bits_fieldGroup s k.toNat _⟩

/-- Settles O40: the numerator fits its register, so the value is the rational of R85. -/
theorem fixedDeliversTheExactRational : Obligations.FixedDeliversTheExactRational := by
  unfold Obligations.FixedDeliversTheExactRational
  intro s k hlen hfit hk hlegal hvalid hmode
  obtain ⟨-, hfixed, -⟩ := descMode_iff (s.descAt k.toNat)
  have hdecode := fieldDecode_of_fixed hfit hlegal hvalid (hfixed.2 hmode)
  exact ⟨_, runsTo_extract_of_fieldDecode hlen hk hdecode, rfl, rfl, rfl, fixed_den_toNat .., rfl, fixed_num_toInt ..,
    fixed_num_bound .., fixed_value ..⟩

/-- Settles O41: the word is zero-extended, and the structure check has ruled the divisor 0 out. -/
theorem idivDeliversTheExactQuotient : Obligations.IdivDeliversTheExactQuotient := by
  unfold Obligations.IdivDeliversTheExactQuotient
  intro s k hlen hfit hk hlegal hvalid hmode
  obtain ⟨-, -, hidiv⟩ := descMode_iff (s.descAt k.toNat)
  have hdecode := fieldDecode_of_idiv hfit hlegal hvalid (hidiv.2 hmode)
  exact ⟨_, runsTo_extract_of_fieldDecode hlen hk hdecode, rfl, rfl, rfl, rfl, rfl,
    hlegal.descDiv_ne_zero (hidiv.2 hmode), idiv_num_toInt .., idiv_value ..⟩

/-- Settles O42: the model's comparison is the one by cross products, which decides equality of the quotients. -/
theorem rationalResultsCompareByCrossProducts : Obligations.RationalResultsCompareByCrossProducts := by
  unfold Obligations.RationalResultsCompareByCrossProducts
  refine ⟨fixed_den_toNat, fun v div tag => ⟨idiv_num_toInt v div tag, rfl⟩,
    fun r q _ _ hr hq => ?_⟩
  have hvalue := Scalar.value_eq_iff hr hq
  exact ⟨hvalue, (Scalar.sameValue_iff r q).trans hvalue.symm⟩

/-- Settles O43: the identity of R89 over the rationals; a divisor that an integer SCALE could stand for divides 65535,
and 10, 100 and 200 do not. -/
theorem idivIsAFixedPointScaleOnlyAsARational : Obligations.IdivIsAFixedPointScaleOnlyAsARational := by
  unfold Obligations.IdivIsAFixedPointScaleOnlyAsARational
  refine ⟨fun v div tag _ => ⟨idiv_value v div tag, ?_⟩, fun _ hdiv => scale_isInt_iff_dvd hdiv, fun div hmem => ?_⟩
  · rw [idiv_value]
    field_simp
    ring
  · have hdivisors : ∀ d ∈ [(10 : BitVec 16), 100, 200], d ≠ 0 ∧ ¬ d.toNat ∣ 65535 := by simp
    obtain ⟨hne, hnot⟩ := hdivisors div hmem
    exact ⟨hnot, fun scale tag => ⟨1, fun h => hnot (dvd_of_fixed_one_eq_idiv_one hne h)⟩⟩

end Sys2Proof.Proofs
end

section
/-! PROOF. READING: its outcomes in the order of its checks, the committed Reading, the frame that a legal layout tiles,
and READING against EXTRACT. -/

namespace Sys2Proof

theorem decode_reading_of_opField {w : Command} (h : w.extractLsb' 28 4 = 0x6) : decode w = .reading := by
  rw [decode, opField, h]
  rfl

end Sys2Proof

namespace Sys2Proof.Machine

/-! ## The two outcomes of READING (spec R92, R95) -/

/-- `s` after a READING that commits the staged Reading `rs`. -/
def State.commitStage (s : State) (rs : List Scalar) : State :=
  (s.commitReading s.nf (committedFields s rs)).finishOk true

section
variable {s : State} {f : Failure} {rs : List Scalar} {k : Nat}

theorem exec_reading_of_ok (h : readingResult s = .ok rs) : exec .reading s = .next (s.commitStage rs) := by
  rw [exec, execReading, h, State.commitStage]

theorem runsTo_reading_of_fail (h : readingResult s = .fail f) :
    RunsTo .reading s (s.dropReading.raise f) [.status, .rvalid] :=
  ⟨exec_reading_of_fail h, dropReading_raise_sameExcept s f, fun _ => rfl⟩

/-- What the host sees of a READING that a configuration check ends (spec R95). -/
theorem reading_raises_configFailure (h : readingConfigFailure s = some f) :
    ∃ t, RunsTo .reading s t [.status, .rvalid] ∧ t.rvalid = false ∧ t.status = ⟨f.err, false, f.k, f.tag⟩ :=
  ⟨_, runsTo_reading_of_fail (readingResult_of_configFailure h), rfl, rfl⟩

/-- With a frame inside FB no read faults, so READING commits or fails. -/
theorem readingResult_ok_or_fail (hfit : s.flen.toNat ≤ s.params.maxFrameBytes) :
    (∃ rs, readingResult s = .ok rs) ∨ ∃ f, readingResult s = .fail f := by
  cases h : readingResult s with
  | ok rs => exact .inl ⟨rs, rfl⟩
  | fail f => exact .inr ⟨f, rfl⟩
  | fault f =>
    obtain ⟨⟨-, hlegal, -⟩, k, hk, hout⟩ := readingResult_eq_fault h
    exact absurd ((hlegal k hk).descEnd_le hfit) hout.not_ge

/-- Every error that READING raises has a code other than 0 (spec R101). -/
theorem readingResult_fail_err (h : readingResult s = .fail f) : f.err ≠ .ok := by
  obtain hconfig | ⟨-, hcheck⟩ := readingResult_eq_fail h
  · obtain hframe | ⟨k, -, hfield⟩ | ⟨k, -, hoverlap⟩ | hcover := readingConfigFailure_cases hconfig
    · obtain ⟨-, rfl⟩ := frameFailure_eq_some.1 hframe
      exact nofun
    · obtain ⟨-, rfl⟩ | ⟨-, -, rfl⟩ := configFailure_eq_some.1 hfield <;> exact nofun
    · obtain ⟨-, rfl⟩ := overlapFailure_eq_some.1 hoverlap
      exact nofun
    · obtain ⟨-, rfl⟩ := coverageFailure_eq_some.1 hcover
      exact nofun
  · obtain ⟨-, k, -, -, -, -, rfl⟩ := checkFields_eq_fail hcheck
    exact nofun

/-! ## The committed Reading (spec R92) -/

/-- A descriptor in use has its `field_decode` in RD. -/
theorem fieldDecode_of_commitStage (h : s.Inv) (hr : readingResult s = .ok rs) (hk : k < s.nf.toNat) :
    fieldDecode s k = .ok ((s.commitStage rs).rdAt k) := by
  have hget : (s.commitStage rs).rdAt k = rs.getD k Scalar.empty :=
    (committedFields_getD (hk.trans_le h.nf_le) rs).trans (if_pos hk)
  rw [hget, fieldDecode_of_readingResult hr hk]

/-- From NF on RD is cleared. -/
theorem commitStage_rdAt_of_le (hk : s.nf.toNat ≤ k) : (s.commitStage rs).rdAt k = Scalar.empty := by
  by_cases hcap : k < s.params.maxFields
  · exact (committedFields_getD hcap rs).trans (if_neg hk.not_gt)
  · exact List.getD_eq_default _ _ ((committedFields_length s rs).trans_le (Nat.le_of_not_lt hcap))

/-- STATUS after a commit: VALID and the RVALID mirror, and nothing else (spec R19, R92). -/
theorem commitStage_statusWord : (s.commitStage rs).statusWord = 0x00000030 := by
  rw [State.statusWord, State.commitStage, State.finishOk_status, State.finishOk_rvalid, State.commitReading_rvalid]
  decide

theorem readingResult_of_legal_valid (hfit : s.flen.toNat ≤ s.params.maxFrameBytes) (htable : TableLegal s)
    (hvalid : ∀ k < s.nf.toNat, FieldValid s k) : ∃ rs, readingResult s = .ok rs := by
  obtain hok | ⟨f, hf⟩ := readingResult_ok_or_fail hfit
  · exact hok
  obtain hconfig | ⟨-, hcheck⟩ := readingResult_eq_fail hf
  · rw [readingConfigFailure_eq_none.2 htable] at hconfig
    exact nomatch hconfig
  · obtain ⟨pre, k, post, hfields, -, hinvalid, -⟩ := checkFields_eq_fail hcheck
    have hk : k ∈ s.fields := hfields ▸ List.mem_append_cons_self
    exact absurd (hvalid k (List.mem_range.1 hk)) hinvalid

/-! ## The first failure (spec R93) -/

theorem configFailure_of_illegal (h : ¬ FieldLegal s k) : configFailure s k =
    some (fieldFailure s (if structureFails (s.descAt k) then .descriptor else .fieldRange) k) := by
  cases hstruct : structureFails (s.descAt k) with
  | true => exact configFailure_eq_some.2 (.inl ⟨hstruct, rfl⟩)
  | false => exact configFailure_eq_some.2 (.inr ⟨hstruct, Nat.lt_of_not_le fun hrange => h ⟨hstruct, hrange⟩, rfl⟩)

section
variable (hlen : s.flen.toNat % 3 = 0) (hlegal : ∀ j < s.nf.toNat, FieldLegal s j)
include hlen hlegal

/-- Once every field is legal the layout decides (spec R93, item 3). -/
theorem readingConfigFailure_eq_layout :
    readingConfigFailure s = (s.fields.findSome? (overlapFailure s)).or (coverageFailure s) := by
  have hfields : s.fields.findSome? (configFailure s) = none :=
    List.findSome?_eq_none_iff.2 fun j hj => configFailure_eq_none.2 (hlegal j (List.mem_range.1 hj))
  rw [readingConfigFailure, frameFailure_eq_none.2 hlen, hfields, Option.none_or, Option.none_or]

theorem readingConfigFailure_of_firstOverlap (hk : k < s.nf.toNat)
    (hbefore : ∀ i < k, ∀ j < i, overlaps (s.descAt i) (s.descAt j) = false)
    (hoverlap : ∃ j < k, overlaps (s.descAt k) (s.descAt j) = true) :
    readingConfigFailure s = some (fieldFailure s .descriptor k) := by
  obtain ⟨rest, hfields⟩ := fields_eq_append hk
  have hfirst : s.fields.findSome? (overlapFailure s) = some (fieldFailure s .descriptor k) :=
    List.findSome?_eq_some_iff.2 ⟨_, k, rest, hfields, overlapFailure_eq_some.2 ⟨hoverlap, rfl⟩, fun i hi =>
      overlapFailure_eq_none.2 (hbefore i (List.mem_range.1 hi))⟩
  rw [readingConfigFailure_eq_layout hlen hlegal, hfirst, Option.some_or]

theorem readingConfigFailure_of_uncovered
    (hdisjoint : ∀ i < s.nf.toNat, ∀ j < i, overlaps (s.descAt i) (s.descAt j) = false)
    (hspan : s.totalSpan ≠ s.flen.toNat) : readingConfigFailure s = some ⟨.descriptor, s.nf, 0⟩ := by
  have hnone : s.fields.findSome? (overlapFailure s) = none :=
    List.findSome?_eq_none_iff.2 fun i hi => overlapFailure_eq_none.2 (hdisjoint i (List.mem_range.1 hi))
  rw [readingConfigFailure_eq_layout hlen hlegal, hnone, Option.none_or]
  exact coverageFailure_eq_some.2 ⟨hspan, rfl⟩

end

/-! ## The empty table (spec R92, NF = 0) -/

section
variable (hnf : s.nf = 0)
include hnf

theorem fields_eq_nil : s.fields = [] := by
  rw [State.fields, hnf]
  rfl

theorem totalSpan_eq_zero : s.totalSpan = 0 := by
  rw [State.totalSpan, fields_eq_nil hnf]
  rfl

theorem forall_lt_nf (P : Nat → Prop) : ∀ k < s.nf.toNat, P k := by
  rw [hnf]
  exact fun k hk => absurd hk k.not_lt_zero

/-- An empty table on an empty frame is a legal one, and its Reading is empty. -/
theorem readingResult_of_empty (hflen : s.flen = 0) : readingResult s = .ok [] := by
  have hspan : s.totalSpan = s.flen.toNat := by
    rw [totalSpan_eq_zero hnf, hflen]
    rfl
  have hlen : s.flen.toNat % 3 = 0 := by
    rw [hflen]
    rfl
  rw [readingResult_eq_ok, fields_eq_nil hnf]
  exact ⟨⟨hlen, forall_lt_nf hnf _, forall_lt_nf hnf _, hspan⟩, forall_lt_nf hnf _, .nil⟩

/-- An empty table covers no frame but the empty one. -/
theorem readingConfigFailure_of_noFields (hlen : s.flen.toNat % 3 = 0) (hflen : s.flen ≠ 0) :
    readingConfigFailure s = some ⟨.descriptor, 0, 0⟩ := by
  have hspan : s.totalSpan ≠ s.flen.toNat := by
    rw [totalSpan_eq_zero hnf]
    exact fun h => hflen (BitVec.eq_of_toNat_eq h.symm)
  rw [readingConfigFailure_of_uncovered hlen (forall_lt_nf hnf _) (forall_lt_nf hnf _) hspan, hnf]

end

end

/-! ## A legal layout tiles the frame (spec R94) -/

/-- The bytes of descriptor `k`'s span (spec R74). -/
def fieldSpan (s : State) (k : Nat) : Finset Nat := Finset.Ico (descOff (s.descAt k)) (descEnd (s.descAt k))

section
variable {s : State} {k j : Nat}

theorem mem_fieldSpan {a : Nat} : a ∈ fieldSpan s k ↔ descOff (s.descAt k) ≤ a ∧ a < descEnd (s.descAt k) :=
  Finset.mem_Ico

theorem card_fieldSpan (s : State) (k : Nat) : (fieldSpan s k).card = 3 * descWcnt (s.descAt k) := by
  rw [fieldSpan, Nat.card_Ico, descEnd, Nat.add_sub_cancel_left]

/-- The span of a legal field has a byte. -/
theorem FieldLegal.descOff_lt_descEnd (h : FieldLegal s k) : descOff (s.descAt k) < descEnd (s.descAt k) := by
  have hwcnt := h.descWcnt_eq
  unfold descEnd
  split at hwcnt <;> omega

/-- Two legal fields overlap exactly when the higher of the two offsets lies in both spans. -/
theorem overlaps_iff_common_byte (hk : FieldLegal s k) (hj : FieldLegal s j) :
    overlaps (s.descAt k) (s.descAt j) = true ↔ ∃ a, descOff (s.descAt k) ≤ a ∧ a < descEnd (s.descAt k) ∧
      descOff (s.descAt j) ≤ a ∧ a < descEnd (s.descAt j) := by
  have hk' := hk.descOff_lt_descEnd
  have hj' := hj.descOff_lt_descEnd
  simp only [overlaps, Bool.and_eq_true, decide_eq_true_eq]
  constructor
  · rintro ⟨hkj, hjk⟩
    exact ⟨max (descOff (s.descAt k)) (descOff (s.descAt j)), by omega⟩
  · rintro ⟨a, ha⟩
    omega

variable (h : TableLegal s)
include h

/-- In a legal table two spans with a byte in common are the same. -/
theorem TableLegal.span_unique {a : Nat} (hk : k < s.nf.toNat) (hj : j < s.nf.toNat) (hak : a ∈ fieldSpan s k)
    (haj : a ∈ fieldSpan s j) : k = j := by
  obtain ⟨-, hlegal, hdisjoint, -⟩ := h
  obtain ⟨hkl, hku⟩ := mem_fieldSpan.1 hak
  obtain ⟨hjl, hju⟩ := mem_fieldSpan.1 haj
  have hoverlap : overlaps (s.descAt k) (s.descAt j) = true ∧ overlaps (s.descAt j) (s.descAt k) = true := by
    rw [overlaps_iff_common_byte (hlegal k hk) (hlegal j hj), overlaps_iff_common_byte (hlegal j hj) (hlegal k hk)]
    exact ⟨⟨a, hkl, hku, hjl, hju⟩, ⟨a, hjl, hju, hkl, hku⟩⟩
  rcases Nat.lt_trichotomy k j with hlt | heq | hlt
  · simp [hdisjoint j hj k hlt] at hoverlap
  · exact heq
  · simp [hdisjoint k hk j hlt] at hoverlap

/-- Disjoint spans inside the frame that add up to its length leave no byte out. -/
theorem TableLegal.biUnion_fieldSpan :
    (Finset.range s.nf.toNat).biUnion (fieldSpan s) = Finset.range s.flen.toNat := by
  have hpair : (Finset.range s.nf.toNat : Set Nat).PairwiseDisjoint (fieldSpan s) := fun k hk j hj hne =>
    Finset.disjoint_left.2 fun a hak haj =>
      hne (h.span_unique (Finset.mem_range.1 hk) (Finset.mem_range.1 hj) hak haj)
  obtain ⟨-, hlegal, -, hspan⟩ := h
  refine Finset.eq_of_subset_of_card_le (Finset.biUnion_subset.2 fun k hk a ha => ?_) ?_
  · obtain ⟨-, hrange⟩ := hlegal k (Finset.mem_range.1 hk)
    exact Finset.mem_range.2 ((mem_fieldSpan.1 ha).2.trans_le hrange)
  · have hsum : ∑ k ∈ Finset.range s.nf.toNat, (fieldSpan s k).card = s.totalSpan := by
      simp only [card_fieldSpan]
      rfl
    rw [Finset.card_biUnion hpair, Finset.card_range, hsum, hspan]

theorem TableLegal.existsUnique_span {a : Nat} (ha : a < s.flen.toNat) :
    ∃! k, k < s.nf.toNat ∧ descOff (s.descAt k) ≤ a ∧ a < descEnd (s.descAt k) := by
  have hcovered : a ∈ (Finset.range s.nf.toNat).biUnion (fieldSpan s) := by
    rw [h.biUnion_fieldSpan]
    exact Finset.mem_range.2 ha
  obtain ⟨k, hk, hak⟩ := Finset.mem_biUnion.1 hcovered
  refine ⟨k, ⟨Finset.mem_range.1 hk, mem_fieldSpan.1 hak⟩, fun j ⟨hj, haj⟩ => ?_⟩
  exact h.span_unique hj (Finset.mem_range.1 hk) (mem_fieldSpan.2 haj) hak

end

/-! ## EXTRACT looks at its own descriptor alone (spec R80, R94) -/

section
variable {s : State} {ds : List Desc}

theorem fieldDecode_withDesc_of_getD {k : Nat} (h : ds.getD k 0 = s.descAt k) :
    fieldDecode (s.withDesc ds) k = fieldDecode s k := by
  have hdesc : (s.withDesc ds).descAt k = s.descAt k := h
  have hconfig : configFailure (s.withDesc ds) k = configFailure s k := by
    simp only [configFailure, fieldFailure, hdesc]
    rfl
  have hwords : fieldWords (s.withDesc ds) k = fieldWords s k := by
    simp only [fieldWords, fieldFailure, hdesc]
    rfl
  rw [fieldDecode, hconfig, hwords, hdesc, fieldDecode]

theorem exec_extract_withDesc {k : Byte} (h : ds.getD k.toNat 0 = s.descAt k.toNat) :
    exec (.extract k) (s.withDesc ds) = mapNext (fun t => { t with desc := ds }) (exec (.extract k) s) := by
  have hresult : extractResult k (s.withDesc ds) = extractResult k s := by
    rw [extractResult, fieldDecode_withDesc_of_getD h]
    rfl
  show execExtract k (s.withDesc ds) = mapNext _ (execExtract k s)
  unfold execExtract
  rw [hresult]
  cases extractResult k s <;> rfl

end

end Sys2Proof.Machine

namespace Sys2Proof.Proofs
open Sys2Proof.Machine

/-- Settles O45: the conditions of READING's success decide between the commit and the drop of RVALID. -/
theorem readingCommand : Obligations.ReadingCommand := by
  unfold Obligations.ReadingCommand
  refine ⟨rfl, fun _ h => decode_reading_of_opField h, fun s h htable hvalid => ?_, fun s h hfails => ?_,
    fun s hnf hlen => ?_⟩
  · obtain ⟨rs, hr⟩ := readingResult_of_legal_valid h.flen_le htable hvalid
    exact ⟨_, runsTo_footprint (exec_reading_of_ok hr), rfl, rfl, rfl,
      fun k hk => fieldDecode_of_commitStage h hr hk, fun k _ hk => commitStage_rdAt_of_le hk⟩
  · obtain ⟨rs, hr⟩ | ⟨f, hf⟩ := readingResult_ok_or_fail h.flen_le
    · obtain ⟨htable, hfields, -⟩ := readingResult_eq_ok.1 hr
      exact absurd ⟨htable, fun k hk => (hfields k hk).2⟩ hfails
    · exact ⟨_, runsTo_reading_of_fail hf, rfl, rfl, readingResult_fail_err hf⟩
  · by_cases hflen : s.flen = 0
    · exact ⟨_, exec_reading_of_ok (readingResult_of_empty hnf hflen), fun _ => ⟨hnf, rfl, fun k =>
        commitStage_rdAt_of_le (by simp [hnf])⟩, fun hne => absurd hflen hne⟩
    · have hconfig := readingConfigFailure_of_noFields hnf hlen hflen
      exact ⟨_, exec_reading_of_fail (readingResult_of_configFailure hconfig), fun hzero => absurd hzero hflen,
        fun _ => ⟨rfl, rfl⟩⟩

/-- Settles O46: at each stage the earlier checks pass, so its first failure is the one recorded. -/
theorem readingReportsTheFirstFailure : Obligations.ReadingReportsTheFirstFailure := by
  unfold Obligations.ReadingReportsTheFirstFailure
  refine fun s hfit => ⟨fun hlen => ?_, fun k hlen hk hbefore hillegal => ?_,
    fun k hlen hlegal hk hbefore hoverlap => ?_, fun hlen hlegal hdisjoint hspan => ?_,
    fun k htable hk hbefore hinvalid => ?_⟩
  · exact ⟨_, ⟨exec_reading_of_partialWord hlen, dropReading_raise_sameExcept s _, fun _ => rfl⟩, rfl, rfl⟩
  · have hconfig := readingConfigFailure_of_first hlen hk hbefore (configFailure_of_illegal hillegal)
    rw [fieldFailure_toNat] at hconfig
    exact reading_raises_configFailure hconfig
  · have hconfig := readingConfigFailure_of_firstOverlap hlen hlegal hk hbefore hoverlap
    rw [fieldFailure_toNat] at hconfig
    exact reading_raises_configFailure hconfig
  · exact reading_raises_configFailure (readingConfigFailure_of_uncovered hlen hlegal hdisjoint hspan)
  · have hresult := readingResult_of_firstInvalid hfit hk htable hbefore hinvalid
    rw [fieldFailure_toNat] at hresult
    exact ⟨_, runsTo_reading_of_fail hresult, rfl, rfl⟩

/-- Settles O47, by counting: disjoint spans inside the frame that add up to its length leave no byte out. -/
theorem legalLayoutTilesTheFrame : Obligations.LegalLayoutTilesTheFrame := by
  unfold Obligations.LegalLayoutTilesTheFrame
  refine ⟨fun _ _ _ hk hj => overlaps_iff_common_byte hk hj, fun _ h _ ha => h.existsUnique_span ha,
    fun s h k hk => ?_, fun _ _ _ h => exec_extract_withDesc h⟩
  obtain ⟨-, hlegal, -⟩ := h
  obtain ⟨hstruct, hrange⟩ := hlegal k hk
  obtain ⟨-, hoff⟩ := structureFails_eq_false.1 hstruct
  exact ⟨hrange, hoff⟩

/-- Settles O48: READING commits every field or keeps RNF and RD; one invalid group leaves the earlier fields valid. -/
theorem noPartialReading : Obligations.NoPartialReading := by
  unfold Obligations.NoPartialReading
  refine ⟨fun s h => ?_, fun s k j h htable hk hj hbad hothers => ?_⟩
  · obtain ⟨rs, hr⟩ | ⟨f, hf⟩ := readingResult_ok_or_fail h.flen_le
    · refine ⟨_, exec_reading_of_ok hr, .inl ⟨rfl, rfl, rfl, fun k (hk : k < s.nf.toNat) => ?_⟩⟩
      have hdecode := fieldDecode_of_commitStage h hr hk
      exact ⟨hdecode, (fieldDecode_ok_wf hdecode).2⟩
    · exact ⟨_, exec_reading_of_fail hf, .inr ⟨rfl, readingResult_fail_err hf, rfl, rfl⟩⟩
  · have hbefore : ∀ i < k.toNat, FieldValid s i := fun i hi j' hj' =>
      hothers i (hi.trans hk) j' hj' fun heq => hi.ne (congrArg Prod.fst heq)
    have hinvalid : ¬ FieldValid s k.toNat := fun hvalid =>
      Bool.false_ne_true (hbad.symm.trans (hvalid j hj))
    have hresult := readingResult_of_firstInvalid h.flen_le hk htable hbefore hinvalid
    rw [fieldFailure_toNat] at hresult
    exact ⟨_, exec_reading_of_fail hresult, rfl, rfl⟩

/-- Settles O49: both commands deliver `field_decode(k)` of the same state. -/
theorem readingAgreesWithExtract : Obligations.ReadingAgreesWithExtract := by
  unfold Obligations.ReadingAgreesWithExtract
  intro s t h ht hrvalid k hk
  obtain ⟨rs, hr⟩ | ⟨f, hf⟩ := readingResult_ok_or_fail h.flen_le
  · obtain rfl := Host.Outcome.next.inj ((exec_reading_of_ok hr).symm.trans ht)
    obtain ⟨⟨hlen, -⟩, -⟩ := readingResult_eq_ok.1 hr
    have hextract := extractResult_eq_ok.2 ⟨hlen, hk, fieldDecode_of_commitStage h hr hk⟩
    exact ⟨_, exec_extract_of_ok hextract, rfl, rfl⟩
  · obtain rfl := Host.Outcome.next.inj ((exec_reading_of_fail hf).symm.trans ht)
    exact nomatch hrvalid

/-- Settles O13: right after reset the frame and the table are empty, so READING commits the empty Reading, and EXTRACT
ends at the index check. -/
theorem commandsRightAfterReset : Obligations.CommandsRightAfterReset := by
  unfold Obligations.CommandsRightAfterReset
  refine ⟨by decide, fun p => ?_, fun p k => ?_⟩
  · have hresult : readingResult (State.resetWith p) = .ok [] := readingResult_of_empty rfl rfl
    exact ⟨_, exec_reading_of_ok hresult, rfl, rfl, commitStage_statusWord⟩
  · have hindex : extractResult k (State.resetWith p) = .fail ⟨.descriptor, k, 0⟩ :=
      extractResult_eq_fail.2 (.inr (.inl ⟨rfl, Nat.zero_le _, rfl⟩))
    exact ⟨_, exec_extract_of_fail hindex, rfl, rfl⟩

end Sys2Proof.Proofs
end

section
/-! PROOF. Errors: what each command raises and why, as one relation; every command ends with success or with an error of
that relation and its failure path; and no command looks at the STATUS before it. -/

namespace Sys2Proof.Machine

/-! ## The causes of the errors (spec R101) -/

/-- Command `i` has a cause in state `s` to raise `f`: one constructor for each cause of R101, with the commands that
raise it and the ERRK and ERRTAG it records. -/
inductive Raises (s : State) : Instr → Failure → Prop where
  /-- FLEN is not a multiple of 3. -/
  | frame {i : Instr} (hi : i = .wdec ∨ i = .reading ∨ ∃ k, i = .extract k) (hlen : s.flen.toNat % 3 ≠ 0) :
      Raises s i ⟨.frameLength, 0, 0⟩
  /-- An illegal opcode. -/
  | illegal {i : Instr} (hi : i.mnemonic = "ILLEGAL") : Raises s i ⟨.unknownOperation, 0, 0⟩
  /-- No such descriptor. -/
  | index {k : Byte} (hk : s.nf.toNat ≤ k.toNat) : Raises s (.extract k) ⟨.descriptor, k, 0⟩
  /-- The spans do not add up to the frame. -/
  | coverage (hspan : s.totalSpan ≠ s.flen.toNat) : Raises s .reading ⟨.descriptor, s.nf, 0⟩
  /-- A malformed descriptor. -/
  | malformed {i : Instr} {k : Byte} (hi : i = .reading ∨ i = .extract k) (hk : k.toNat < s.nf.toNat)
      (hfails : structureFails (s.descAt k.toNat) = true) :
      Raises s i ⟨.descriptor, k, descTag (s.descAt k.toNat)⟩
  /-- An overlap with an earlier descriptor. -/
  | overlap {k : Byte} (hk : k.toNat < s.nf.toNat)
      (hoverlap : ∃ j < k.toNat, overlaps (s.descAt k.toNat) (s.descAt j) = true) :
      Raises s .reading ⟨.descriptor, k, descTag (s.descAt k.toNat)⟩
  /-- The field reaches past the frame. -/
  | range {i : Instr} {k : Byte} (hi : i = .reading ∨ i = .extract k) (hk : k.toNat < s.nf.toNat)
      (hrange : s.flen.toNat < descEnd (s.descAt k.toNat)) :
      Raises s i ⟨.fieldRange, k, descTag (s.descAt k.toNat)⟩
  /-- A word of the field fails its checksum. -/
  | checksum {i : Instr} {k : Byte} (hi : i = .reading ∨ i = .extract k) (hk : k.toNat < s.nf.toNat)
      (hinvalid : ¬ FieldValid s k.toNat) : Raises s i ⟨.checksum, k, descTag (s.descAt k.toNat)⟩

section
variable {s : State} {i : Instr} {f : Failure}

theorem Raises.err_ne_ok (h : Raises s i f) : f.err ≠ .ok := by
  cases h <;> exact nofun

/-- NF has 8 bits, so the number of a descriptor in use is a byte, and ERRK shows it whole. -/
theorem exists_byte_of_mem_fields {k : Nat} (hk : k ∈ s.fields) : ∃ b : Byte, b.toNat = k ∧ b.toNat < s.nf.toNat := by
  have hlt := List.mem_range.1 hk
  have hbyte : (BitVec.ofNat 8 k).toNat = k := Nat.mod_eq_of_lt (hlt.trans s.nf.isLt)
  exact ⟨BitVec.ofNat 8 k, hbyte, hbyte.symm ▸ hlt⟩

theorem raises_of_frameFailure (hi : i = .wdec ∨ i = .reading ∨ ∃ k, i = .extract k) (h : frameFailure s = some f) :
    Raises s i f := by
  obtain ⟨hlen, rfl⟩ := frameFailure_eq_some.1 h
  exact .frame hi hlen

theorem raises_of_configFailure {k : Byte} (hi : i = .reading ∨ i = .extract k) (hk : k.toNat < s.nf.toNat)
    (h : configFailure s k.toNat = some f) : Raises s i f := by
  obtain ⟨hfails, rfl⟩ | ⟨-, hrange, rfl⟩ := configFailure_eq_some.1 h <;> rw [fieldFailure_toNat]
  · exact .malformed hi hk hfails
  · exact .range hi hk hrange

theorem raises_of_extractResult {k : Byte} (h : extractResult k s = .fail f) : Raises s (.extract k) f := by
  obtain hframe | ⟨-, hindex, rfl⟩ | ⟨-, hk, hfield⟩ := extractResult_eq_fail.1 h
  · exact raises_of_frameFailure (.inr (.inr ⟨k, rfl⟩)) hframe
  · exact .index hindex
  · obtain hconfig | ⟨-, -, hinvalid, rfl⟩ := fieldDecode_eq_fail.1 hfield
    · exact raises_of_configFailure (.inr rfl) hk hconfig
    · rw [fieldFailure_toNat]
      exact .checksum (.inr rfl) hk hinvalid

theorem raises_of_readingConfigFailure (h : readingConfigFailure s = some f) : Raises s .reading f := by
  obtain hframe | ⟨k, hk, hfield⟩ | ⟨k, hk, hoverlap⟩ | hcover := readingConfigFailure_cases h
  · exact raises_of_frameFailure (.inr (.inl rfl)) hframe
  · obtain ⟨b, rfl, hb⟩ := exists_byte_of_mem_fields hk
    exact raises_of_configFailure (.inl rfl) hb hfield
  · obtain ⟨b, rfl, hb⟩ := exists_byte_of_mem_fields hk
    obtain ⟨hcommon, rfl⟩ := overlapFailure_eq_some.1 hoverlap
    rw [fieldFailure_toNat]
    exact .overlap hb hcommon
  · obtain ⟨hspan, rfl⟩ := coverageFailure_eq_some.1 hcover
    exact .coverage hspan

theorem raises_of_readingResult (h : readingResult s = .fail f) : Raises s .reading f := by
  obtain hconfig | ⟨-, hcheck⟩ := readingResult_eq_fail h
  · exact raises_of_readingConfigFailure hconfig
  · obtain ⟨pre, k, post, hfields, -, hinvalid, rfl⟩ := checkFields_eq_fail hcheck
    obtain ⟨b, rfl, hb⟩ := exists_byte_of_mem_fields (s := s) (hfields ▸ List.mem_append_cons_self)
    rw [fieldFailure_toNat]
    exact .checksum (.inl rfl) hb hinvalid

end

/-! ## The two ends of a command (spec R99, R102) -/

/-- How a command that completes has ended: with `finish_ok`, or by raising an error it has a cause for, after the writes
of its failure path. -/
def EndsIn (i : Instr) (s t : State) : Prop :=
  (∃ valid, t.status = ⟨.ok, valid, 0, 0⟩) ∨ ∃ f, Raises s i f ∧ t = (failureWrites i s).raise f

section
variable {s t : State}

theorem execWdec_endsIn (h : execWdec s = .next t) : EndsIn .wdec s t := by
  by_cases hlen : s.flen.toNat % 3 = 0
  · obtain rfl := Host.Outcome.next.inj ((exec_wdec_of_wholeWords hlen).symm.trans h)
    exact .inl ⟨_, rfl⟩
  · obtain rfl := Host.Outcome.next.inj ((exec_wdec_of_partialWord hlen).symm.trans h)
    exact .inr ⟨_, .frame (.inl rfl) hlen, rfl⟩

theorem execExtract_endsIn {k : Byte} (h : execExtract k s = .next t) : EndsIn (.extract k) s t := by
  obtain ⟨f, -, he⟩ | ⟨f, hf, he⟩ | ⟨r, -, he⟩ := execExtract_cases k s
  · exact nomatch he.symm.trans h
  · obtain rfl := Host.Outcome.next.inj (he.symm.trans h)
    exact .inr ⟨f, raises_of_extractResult hf, rfl⟩
  · obtain rfl := Host.Outcome.next.inj (he.symm.trans h)
    exact .inl ⟨true, rfl⟩

theorem execReading_endsIn (h : execReading s = .next t) : EndsIn .reading s t := by
  obtain ⟨f, -, he⟩ | ⟨f, hf, he⟩ | ⟨rs, -, he⟩ := execReading_cases s
  · exact nomatch he.symm.trans h
  · obtain rfl := Host.Outcome.next.inj (he.symm.trans h)
    exact .inr ⟨f, raises_of_readingResult hf, rfl⟩
  · obtain rfl := Host.Outcome.next.inj (he.symm.trans h)
    exact .inl ⟨true, rfl⟩

theorem exec_endsIn {i : Instr} (h : exec i s = .next t) : EndsIn i s t := by
  cases i with
  | wdec => exact execWdec_endsIn h
  | extract k => exact execExtract_endsIn h
  | reading => exact execReading_endsIn h
  | crc8 | check | wenc =>
    obtain rfl := Host.Outcome.next.inj h
    exact .inl ⟨_, rfl⟩
  | illegal0 | illegal7 | illegal8 | illegal9 | illegalA | illegalB | illegalC | illegalD | illegalE | illegalF =>
    exact .inr ⟨_, .illegal rfl, (Host.Outcome.next.inj h).symm⟩

end

/-! ## The illegal commands (spec R103) -/

/-- Raising an error writes STATUS alone (spec R102). -/
theorem raise_sameExcept (s : State) (f : Failure) : SameExcept [.status] s (s.raise f) := by
  refine ⟨fun r _ hne => ?_, rfl, rfl, rfl⟩
  cases r with
  | status => simp at hne
  | _ => rfl

theorem exec_of_illegal {i : Instr} (hi : i.mnemonic = "ILLEGAL") (s : State) :
    exec i s = .next (s.raise ⟨.unknownOperation, 0, 0⟩) := by
  cases i with
  | crc8 | check | wenc | wdec | extract | reading => simp [Instr.mnemonic] at hi
  | _ => rfl

/-- Code 3 in ERR, and the RVALID mirror kept. -/
theorem statusWord_raise_unknownOperation (s : State) :
    (s.raise ⟨.unknownOperation, 0, 0⟩).statusWord = if s.rvalid then 0x00000023 else 0x00000003 := by
  rw [State.statusWord, State.raise_status, State.raise_rvalid]
  cases s.rvalid <;> decide

end Sys2Proof.Machine

namespace Sys2Proof.Proofs
open Sys2Proof.Machine

/-- Settles O51: a command that records an error has raised it for one of the causes of R101, and each cause meets the
clause of its own error alone. -/
theorem errorsHaveTheirCauses : Obligations.ErrorsHaveTheirCauses := by
  unfold Obligations.ErrorsHaveTheirCauses
  refine ⟨rfl, rfl, rfl, rfl, rfl, rfl, fun e => by cases e <;> decide, fun i s t h => ?_⟩
  obtain ⟨valid, hok⟩ | ⟨f, hf, rfl⟩ := exec_endsIn h
  · rw [hok]
    exact ⟨fun _ => ⟨rfl, rfl⟩, nofun, nofun, nofun, nofun, nofun⟩
  · rw [State.raise_status]
    cases hf with
    | frame hi hlen => exact ⟨nofun, fun _ => ⟨hi, hlen, rfl, rfl⟩, nofun, nofun, nofun, nofun⟩
    | checksum hi hk hinvalid => exact ⟨nofun, nofun, fun _ => ⟨hi, hk, hinvalid, rfl⟩, nofun, nofun, nofun⟩
    | illegal hi => exact ⟨nofun, nofun, nofun, fun _ => ⟨hi, rfl, rfl⟩, nofun, nofun⟩
    | index hk => exact ⟨nofun, nofun, nofun, nofun, fun _ => .inl ⟨rfl, hk, rfl⟩, nofun⟩
    | coverage hspan => exact ⟨nofun, nofun, nofun, nofun, fun _ => .inr (.inl ⟨rfl, rfl, hspan, rfl⟩), nofun⟩
    | malformed hi hk hfails =>
      exact ⟨nofun, nofun, nofun, nofun, fun _ => .inr (.inr ⟨hi, hk, rfl, .inl hfails⟩), nofun⟩
    | overlap hk hoverlap =>
      exact ⟨nofun, nofun, nofun, nofun, fun _ => .inr (.inr ⟨.inl rfl, hk, rfl, .inr ⟨rfl, hoverlap⟩⟩), nofun⟩
    | range hi hk hrange => exact ⟨nofun, nofun, nofun, nofun, nofun, fun _ => ⟨hi, hk, hrange, rfl⟩⟩

/-- Settles O52: a command that ends in an error has made the writes of its failure path and raised the error. -/
theorem failingCommandsArePrecise : Obligations.FailingCommandsArePrecise := by
  unfold Obligations.FailingCommandsArePrecise
  intro i s t h herr
  obtain ⟨valid, hok⟩ | ⟨f, -, rfl⟩ := exec_endsIn h
  · exact absurd (congrArg Status.err hok) herr
  · rfl

/-- Settles O54: no error has the code of success, so the two ends of a command exclude each other. -/
theorem everyCommandEndsInOneStatusWrite : Obligations.EveryCommandEndsInOneStatusWrite := by
  unfold Obligations.EveryCommandEndsInOneStatusWrite
  refine fun i s t h => ⟨?_, statusWord_rvalid t, statusWord_reservedLow t, statusWord_reservedHigh t⟩
  obtain ⟨valid, hok⟩ | ⟨f, hf, rfl⟩ := exec_endsIn h
  · refine .inl ⟨⟨valid, hok⟩, fun ⟨e, k, tag, he, hraised⟩ => ?_⟩
    exact he (congrArg Status.err (hraised.symm.trans hok))
  · refine .inr ⟨⟨f.err, f.k, f.tag, hf.err_ne_ok, rfl⟩, fun ⟨valid, hok⟩ => ?_⟩
    exact hf.err_ne_ok (congrArg Status.err hok)

/-- Settles O55: no command reads the STATUS before it, and a command stops only for a frame longer than FB. -/
theorem errorsAreNotLatched : Obligations.ErrorsAreNotLatched := by
  unfold Obligations.ErrorsAreNotLatched
  refine ⟨exec_withStatus, fun i s st h => ?_⟩
  rw [exec_withStatus]
  exact exec_completes h.flen_le i

/-- Settles O50: the commands of the ten rows, and of the words with an illegal OP, are the ILLEGAL ones, which raise
UnknownOperation and do no more. -/
theorem illegalCommandWords : Obligations.IllegalCommandWords := by
  unfold Obligations.IllegalCommandWords
  refine ⟨fun i hi s => ?_, fun w hop s => exec_of_illegal ((decode_illegal_iff w).2 hop) s⟩
  have hillegal : i.mnemonic = "ILLEGAL" := by
    revert i
    decide
  exact ⟨_, ⟨exec_of_illegal hillegal s, raise_sameExcept s _, fun _ => rfl⟩, rfl, rfl,
    statusWord_raise_unknownOperation s⟩

end Sys2Proof.Proofs
end

section
/-! PROOF. The reset input: every register the host can name reads 0 afterwards, whatever the block held before. -/

namespace Sys2Proof.Machine

/-! ## What the registers read after reset (spec R16, R111) -/

/-- A list filled with its default value reads that value at every index, past its end too. -/
theorem getD_replicate_default {α : Type} (n k : Nat) (d : α) : (List.replicate n d).getD k d = d := by
  rw [List.getD_eq_getElem?_getD, List.getElem?_getD_replicate_default_eq]

@[simp] theorem resetWith_descAt (p : Params) (k : Nat) : (State.resetWith p).descAt k = 0 :=
  getD_replicate_default _ k 0

@[simp] theorem resetWith_rdAt (p : Params) (k : Nat) : (State.resetWith p).rdAt k = Scalar.empty :=
  getD_replicate_default _ k Scalar.empty

@[simp] theorem resetWith_statusWord (p : Params) : (State.resetWith p).statusWord = 0 := by
  rw [State.statusWord, State.resetWith_status, State.resetWith_rvalid]
  decide

/-- An element of an array reads the value the array was filled with, inside its capacity and past it; the other
registers hold 0 themselves. -/
theorem readReg_resetWith (p : Params) (r : Reg) : readReg (State.resetWith p) r = 0 := by
  cases r with
  | status =>
    rw [readReg, resetWith_statusWord]
    rfl
  | wval j =>
    rw [readReg, State.resetWith_wval, getD_replicate_default]
    rfl
  | wok j =>
    rw [readReg, State.resetWith_wok, getD_replicate_default]
    rfl
  | desc k => exact resetWith_descAt p k
  | rdKind k | rdBits k | rdNum k | rdDen k | rdTag k =>
    rw [readReg, resetWith_rdAt]
    rfl
  | _ => rfl

/-- No register shows the host accesses still to come. -/
theorem readReg_setInbox (s : State) (es : List HostEvent) (r : Reg) : readReg (s.setInbox es) r = readReg s r := by
  cases r <;> rfl

theorem readReg_resetRegisters (s : State) (r : Reg) : readReg s.resetRegisters r = 0 := by
  rw [State.resetRegisters, readReg_setReadData, readReg_setInbox, readReg_resetWith]

/-- When every register reads 0, so does every index: one that the map does not hold reads 0 too (spec R17). -/
theorem hostRead_eq_zero {s : State} (h : ∀ r, readReg s r = 0) (index : RegIndex) : hostRead s index = 0 := by
  cases hreg : regAt s.params index with
  | none => exact hostRead_of_unmapped hreg
  | some r => exact (hostRead_of_regAt hreg).trans (h r)

@[simp] theorem perform_reset (s : State) : perform s .reset = .next s.resetRegisters := rfl

end Sys2Proof.Machine

namespace Sys2Proof.Proofs
open Sys2Proof.Machine

/-- Settles O12: the reset input gives every register its value of `State.resetWith`, which reads 0 by name and so at
every index. -/
theorem resetClearsEveryRegister : Obligations.ResetClearsEveryRegister := by
  unfold Obligations.ResetClearsEveryRegister
  refine ⟨fun s => ?_, readReg_resetWith Params.default⟩
  have hregs : ∀ r, readReg s.resetRegisters r = 0 := readReg_resetRegisters s
  exact ⟨_, perform_reset s, rfl, rfl, hregs, hostRead_eq_zero hregs⟩

end Sys2Proof.Proofs
end
